-- ==== Sys2Proof/Word.lean ====
section
/-! DEFINITION. The word and address types of the machine (spec R9, R26, R45). -/

namespace Sys2Proof

/-- A storage word: 36 positions `S, 1, …, 35`; position `p` is bit `35 - p` (R9). -/
abbrev Word := BitVec 36

/-- An 18-bit word address, index value or half word (R26, R71). -/
abbrev Addr := BitVec 18

/-- The 37-bit accumulator magnitude `Q:P:1-35` (R20). -/
abbrev Magnitude := BitVec 37

/-- The accumulator AC: the sign position S and the magnitude positions Q, P, 1-35, Q the most
significant (R20; the order of Q and P is PRESUMED, log 60). -/
structure Acc where
  s : Bool
  m : Magnitude
  deriving DecidableEq, Repr, Inhabited

end Sys2Proof
end

