-- ==== Sys2Proof/Syntax.lean ====
section
/-! DEFINITION. The instructions: one constructor for every row of spec/opcode_table.json. -/

namespace Sys2Proof

/-- The operand part of a processor instruction word: flag, Tag 1, Tag 2 and address field (R101). -/
structure Operand where
  f : Bool
  t1 : BitVec 4
  t2 : BitVec 4
  y : Addr
  deriving DecidableEq, Repr, Inhabited

/-- The six command flags, positions 12-17 of a channel command (R452). -/
structure CmdFlags where
  spare : Bool
  sixBit : Bool
  bcd : Bool
  advance : Bool
  indirect : Bool
  immediate : Bool
  deriving DecidableEq, Repr, Inhabited

/-- Every instruction of the machine. Processor instructions carry their operand part; channel commands
their modifier bits, flags and address (R450, R451); data control words their count and address (R457). -/
inductive Instr where
  -- Word transmission operations (40_word_transmission.md)
  /-- Clear and Add (R141). -/
  | cla (o : Operand)
  /-- Clear and Add Logical (R142). -/
  | cal (o : Operand)
  /-- Clear and Subtract (R143). -/
  | cls (o : Operand)
  /-- Load Left Accumulator (R144). -/
  | lla (o : Operand)
  /-- Load Right Accumulator (R145). -/
  | lra (o : Operand)
  /-- Load MQ Register (R146). -/
  | ldq (o : Operand)
  /-- Double Load (R147). -/
  | dla (o : Operand)
  /-- Double Logical Load (R148). -/
  | dlld (o : Operand)
  /-- Double Load Negative (R149). -/
  | dldn (o : Operand)
  /-- Store Accumulator (R150). -/
  | sto (o : Operand)
  /-- Store Logical Word (R151). -/
  | slw (o : Operand)
  /-- Store Accumulator Left (R152). -/
  | stal (o : Operand)
  /-- Store Accumulator Right (R153). -/
  | star (o : Operand)
  /-- Store Accumulator Negative (R154). -/
  | stan (o : Operand)
  /-- Store MQ Register (R155). -/
  | stq (o : Operand)
  /-- Store Left MQ (R156). -/
  | slq (o : Operand)
  /-- Double Store (R157). -/
  | dst (o : Operand)
  /-- Double Logical Store (R158). -/
  | dlsf (o : Operand)
  /-- Double Store Negative (R159). -/
  | dstn (o : Operand)
  /-- Store Zeros (R160). -/
  | stz (o : Operand)
  /-- Store Instruction Counter (R161). -/
  | stl (o : Operand)
  /-- Exchange AC and MQ (R162). -/
  | xca (o : Operand)
  /-- Exchange Logical AC and MQ (R163). -/
  | xcl (o : Operand)
  /-- Enter Keys (R164). -/
  | enk (o : Operand)
  /-- Save Central Processor (R165). -/
  | scpu (o : Operand)
  /-- Restore Central Processor (R166). -/
  | rcpu (o : Operand)
  -- Fixed point operations (41_fixed_point.md)
  /-- Add (R181). -/
  | add (o : Operand)
  /-- Add Magnitude (R182). -/
  | adm (o : Operand)
  /-- Add and Carry Logical (R183). -/
  | acl (o : Operand)
  /-- Subtract (R184). -/
  | sub (o : Operand)
  /-- Subtract Magnitude (R185). -/
  | sbm (o : Operand)
  /-- Multiply (R186). -/
  | mpy (o : Operand)
  /-- Multiply and Round (R187). -/
  | mpr (o : Operand)
  /-- Integer Multiply (R188). -/
  | imp (o : Operand)
  /-- Variable Length Multiply (R189). -/
  | vlm (o : Operand)
  /-- Round (R190). -/
  | rnd (o : Operand)
  /-- Divide or Trap (R191). -/
  | dvt (o : Operand)
  /-- Integer Divide or Trap (R192). -/
  | idv (o : Operand)
  /-- Variable Divide or Trap (R193). -/
  | vdt (o : Operand)
  -- Floating point operations (42_floating_point.md)
  /-- Floating Add (R203). -/
  | fad (o : Operand)
  /-- Floating Add Magnitude (R204). -/
  | fam (o : Operand)
  /-- Unnormalized Floating Add (R205). -/
  | ufa (o : Operand)
  /-- Unnormalized Floating Add Magnitude (R206). -/
  | uam (o : Operand)
  /-- Floating Subtract (R207). -/
  | fsb (o : Operand)
  /-- Floating Subtract Magnitude (R208). -/
  | fsm (o : Operand)
  /-- Unnormalized Floating Subtract (R209). -/
  | ufs (o : Operand)
  /-- Unnormalized Floating Subtract Magnitude (R210). -/
  | usm (o : Operand)
  /-- Floating Multiply (R211). -/
  | fmp (o : Operand)
  /-- Unnormalized Floating Multiply (R212). -/
  | ufm (o : Operand)
  /-- Floating Round (R213). -/
  | frn (o : Operand)
  /-- Floating Divide or Trap (R214). -/
  | fdt (o : Operand)
  /-- Floating Divide or Halt (acts as FDT) (R215). -/
  | fdh (o : Operand)
  /-- Floating Reciprocal Divide or Trap (R216). -/
  | frd (o : Operand)
  /-- Add to Exponent (R217). -/
  | adxp (o : Operand)
  /-- Double Floating Add (R218). -/
  | dfad (o : Operand)
  /-- Double Floating Add Magnitude (R219). -/
  | dfam (o : Operand)
  /-- Double Unnormalized Floating Add (R220). -/
  | dufa (o : Operand)
  /-- Double Unnormalized Floating Add Magnitude (R221). -/
  | duam (o : Operand)
  /-- Double Floating Subtract (R222). -/
  | dfsb (o : Operand)
  /-- Double Floating Subtract Magnitude (R223). -/
  | dfsm (o : Operand)
  /-- Double Unnormalized Floating Subtract (R224). -/
  | dufs (o : Operand)
  /-- Double Unnormalized Floating Subtract Magnitude (R225). -/
  | dusm (o : Operand)
  /-- Double Floating Multiply (R226). -/
  | dfmp (o : Operand)
  /-- Double Unnormalized Floating Multiply (R227). -/
  | dufm (o : Operand)
  /-- Double Floating Divide or Trap (R228). -/
  | dfdt (o : Operand)
  /-- Double Floating Reciprocal Divide or Trap (R229). -/
  | dfrd (o : Operand)
  -- Shifting operations (43_shifting.md)
  /-- Accumulator Left Shift (R241). -/
  | als (o : Operand)
  /-- Accumulator Right Shift (R242). -/
  | ars (o : Operand)
  /-- Long Left Shift (R243). -/
  | lls (o : Operand)
  /-- Long Right Shift (R244). -/
  | lrs (o : Operand)
  /-- Logical Left Shift (R245). -/
  | lgl (o : Operand)
  /-- Logical Right Shift (R246). -/
  | lgr (o : Operand)
  /-- Rotate MQ Left (R247). -/
  | rql (o : Operand)
  -- Control operations (44_control.md)
  /-- No Operation (R253). -/
  | nop (o : Operand)
  /-- Halt and Proceed (R256). -/
  | hpr (o : Operand)
  /-- Halt and Transfer (R257). -/
  | htr (o : Operand)
  /-- Execute (R254). -/
  | xec (o : Operand)
  /-- Transfer (R258). -/
  | tra (o : Operand)
  /-- Trap Transfer (R259). -/
  | ttr (o : Operand)
  /-- Transfer on Zero (R260). -/
  | tze (o : Operand)
  /-- Transfer on No Zero (R261). -/
  | tnz (o : Operand)
  /-- Transfer on Plus (R262). -/
  | tpl (o : Operand)
  /-- Transfer on Minus (R263). -/
  | tmi (o : Operand)
  /-- Transfer on Zero or Minus (R264). -/
  | tzm (o : Operand)
  /-- Transfer on Zero or Plus (R265). -/
  | tzp (o : Operand)
  /-- Transfer Greater than Zero (R266). -/
  | tgz (o : Operand)
  /-- Transfer Less than Zero (R267). -/
  | tlz (o : Operand)
  /-- Transfer on Overflow (R268). -/
  | tov (o : Operand)
  /-- Transfer on No Overflow (R269). -/
  | tno (o : Operand)
  /-- Transfer on MQ Plus (R270). -/
  | tqp (o : Operand)
  /-- Transfer on Low MQ (R271). -/
  | tlq (o : Operand)
  /-- Plus Sense (R272). -/
  | pse (o : Operand)
  /-- Minus Sense (R273). -/
  | mse (o : Operand)
  /-- P Bit Test (R274). -/
  | pbt (o : Operand)
  /-- Low Order Bit Test (R275). -/
  | lbt (o : Operand)
  /-- Storage Zero Test (R277). -/
  | zet (o : Operand)
  /-- Storage Not Zero Test (R278). -/
  | nzt (o : Operand)
  /-- Compare Accumulator with Storage (R279). -/
  | cas (o : Operand)
  /-- Logical Compare Accumulator with Storage (R280). -/
  | las (o : Operand)
  /-- Transfer and Store Location (R281). -/
  | tsl (o : Operand)
  /-- Set Memory Protect (R282). -/
  | smp (o : Operand)
  /-- Enter Trapping Mode (R283). -/
  | etm (o : Operand)
  /-- Leave Trapping Mode (R284). -/
  | ltm (o : Operand)
  /-- Load Interval Timer (R286). -/
  | ltmr (o : Operand)
  /-- Store Interval Timer (R287). -/
  | stmr (o : Operand)
  /-- Load Real Time Clock (R288). -/
  | lrtc (o : Operand)
  /-- Store Real Time Clock (R289). -/
  | srtc (o : Operand)
  /-- Channel Trap Return (Restore Channel Trap) (R290). -/
  | ctr (o : Operand)
  /-- Processor Trap Return (Set CPU Status) (R291). -/
  | ptr (o : Operand)
  /-- Set Channel Assignment Register (R292). -/
  | scar (o : Operand)
  /-- Call Monitor (R293). -/
  | cmon (o : Operand)
  -- Index operations (45_index.md)
  /-- Address to Index True (R301). -/
  | axi (o : Operand)
  /-- Address to Index Complemented (R302). -/
  | axc (o : Operand)
  /-- Place Address in Index (R303). -/
  | pax (o : Operand)
  /-- Place Complement of Address in Index (R304). -/
  | pac (o : Operand)
  /-- Place Index in Address (R305). -/
  | pxa (o : Operand)
  /-- Place Index in Decrement (R306). -/
  | pxd (o : Operand)
  /-- Place Complement of Decrement in Index (R307). -/
  | pdc (o : Operand)
  /-- Place Complement of Index in Decrement (R308). -/
  | pcd (o : Operand)
  /-- Place Complement of Index in Address (R309). -/
  | pca (o : Operand)
  /-- Store Index in Address (R310). -/
  | sxa (o : Operand)
  /-- Store Index in Decrement (R311). -/
  | sxd (o : Operand)
  /-- Store Complement of Index in Address (R312). -/
  | sca (o : Operand)
  /-- Store Complement of Index in Decrement (R313). -/
  | scd (o : Operand)
  /-- Load Index from Address (R314). -/
  | lxa (o : Operand)
  /-- Load Index from Decrement (R315). -/
  | lxd (o : Operand)
  /-- Load Complement of Address in Index (R316). -/
  | lac (o : Operand)
  /-- Load Complement of Decrement in Index (R317). -/
  | ldc (o : Operand)
  /-- Add to Index Signed (R318). -/
  | adxs (o : Operand)
  /-- Add to Index Direct (R319). -/
  | adxd (o : Operand)
  /-- Add to Index Immediate (R320). -/
  | adxi (o : Operand)
  /-- Subtract from Index Signed (R321). -/
  | sbxs (o : Operand)
  /-- Subtract from Index Direct (R322). -/
  | sbxd (o : Operand)
  /-- Subtract from Index Immediate (R323). -/
  | sbxi (o : Operand)
  /-- Place Characteristic in Index (R334). -/
  | pchx (o : Operand)
  /-- Transfer and Set Index (R325). -/
  | tsx (o : Operand)
  /-- Test Index and Transfer (R326). -/
  | txf (o : Operand)
  /-- Transfer Index High (R327). -/
  | txrh (o : Operand)
  /-- Transfer Index Not High (R328). -/
  | txnh (o : Operand)
  /-- Transfer Index Low (R329). -/
  | txrl (o : Operand)
  /-- Transfer Index Not Low (R330). -/
  | txnl (o : Operand)
  /-- Transfer Index Equal (R331). -/
  | txre (o : Operand)
  /-- Transfer Index Not Equal (R332). -/
  | txne (o : Operand)
  /-- Load Index Signed (R333). -/
  | lxs (o : Operand)
  /-- Compare Index Signed (R335). -/
  | cxs (o : Operand)
  /-- Compare Index Direct (R336). -/
  | cxd (o : Operand)
  /-- Compare Index Immediate (R337). -/
  | cxi (o : Operand)
  /-- Close Loop Forward (R338). -/
  | xlf (o : Operand)
  /-- Close Loop Backward (R339). -/
  | xlb (o : Operand)
  /-- Store Multiple Index (R340). -/
  | smx (o : Operand)
  /-- Load Multiple Index (R341). -/
  | lmx (o : Operand)
  -- Logical operations (46_logical.md)
  /-- OR to Accumulator (R361). -/
  | ora (o : Operand)
  /-- OR to Storage (R362). -/
  | ors (o : Operand)
  /-- AND to Accumulator (R363). -/
  | ana (o : Operand)
  /-- AND to Storage (R364). -/
  | ans (o : Operand)
  /-- Exclusive OR to Accumulator (R365). -/
  | era (o : Operand)
  /-- Exclusive OR to Storage (R366). -/
  | ers (o : Operand)
  /-- Complement Magnitude (R367). -/
  | com (o : Operand)
  /-- Clear Magnitude (R368). -/
  | clm (o : Operand)
  /-- Change Sign (R369). -/
  | chs (o : Operand)
  /-- Set Sign Plus (R370). -/
  | ssp (o : Operand)
  /-- Set Sign Minus (R371). -/
  | ssm (o : Operand)
  /-- Add One to Storage (R372). -/
  | ados (o : Operand)
  -- Sense indicator operations (47_sense_indicator.md)
  /-- Load Indicators (R381). -/
  | ldi (o : Operand)
  /-- Store Indicators (R382). -/
  | sti (o : Operand)
  /-- Place Accumulator in Indicators (R383). -/
  | pai (o : Operand)
  /-- Place Indicators in Accumulator (R384). -/
  | pia (o : Operand)
  /-- OR Accumulator to Indicators (R385). -/
  | oai (o : Operand)
  /-- OR Storage to Indicators (R386). -/
  | osi (o : Operand)
  /-- OR Indicators to Storage (R387). -/
  | ois (o : Operand)
  /-- Reset Indicators Left (R388). -/
  | ril (o : Operand)
  /-- Reset Indicators Right (R389). -/
  | rir (o : Operand)
  /-- Set Indicators Left (R390). -/
  | sil (o : Operand)
  /-- Set Indicators Right (R391). -/
  | sir (o : Operand)
  /-- Reset Indicators from Accumulator (R392). -/
  | ria (o : Operand)
  /-- Reset Indicators from Storage (R393). -/
  | ris (o : Operand)
  /-- Invert Indicators from Accumulator (R394). -/
  | iia (o : Operand)
  /-- Invert Indicators from Storage (R395). -/
  | iis (o : Operand)
  /-- Invert Indicators Left (R396). -/
  | iil (o : Operand)
  /-- Invert Indicators Right (R397). -/
  | iir (o : Operand)
  /-- Off Test for Indicators (R398). -/
  | oft (o : Operand)
  /-- On Test for Indicators (R399). -/
  | ont (o : Operand)
  /-- Right Off Test for Indicators (R400). -/
  | rft (o : Operand)
  /-- Right On Test for Indicators (R401). -/
  | rnt (o : Operand)
  /-- Left Off Test for Indicators (R402). -/
  | lft (o : Operand)
  /-- Left On Test for Indicators (R403). -/
  | lnt (o : Operand)
  /-- Load Accumulator Under Control of Indicators (R404). -/
  | laci (o : Operand)
  /-- Store Accumulator Under Control of Indicators (R405). -/
  | saci (o : Operand)
  /-- Insert Accumulator Under Control of Indicators (R406). -/
  | lasi (o : Operand)
  /-- Compare Accumulator Under Control of Indicators (R407). -/
  | casi (o : Operand)
  -- Special purpose operations (48_special_purpose.md)
  /-- Convert Fixed to Floating Point (R421). -/
  | flt (o : Operand)
  /-- Convert Floating to Fixed Point (R422). -/
  | fix (o : Operand)
  /-- Convert BCD to Binary (R427). -/
  | cdec (o : Operand)
  /-- Convert Binary to BCD (R428). -/
  | cbin (o : Operand)
  /-- Shift MQ to Index Left (R423). -/
  | sqxl (o : Operand)
  /-- Shift Index to Accumulator Right (R424). -/
  | sxar (o : Operand)
  /-- Shift MQ to Index and Test (R425). -/
  | sqxt (o : Operand)
  /-- Shift Index to Accumulator and Test (R426). -/
  | sxat (o : Operand)
  -- Input-output operations (49_io_channel.md)
  /-- Start Channel (Channel Test or Start) (R443). -/
  | stc (o : Operand)
  /-- Channel Test (R444). -/
  | cht (o : Operand)
  /-- Store Channel (R445). -/
  | sch (o : Operand)
  /-- Halt Channel (R446). -/
  | hch (o : Operand)
  /-- Inhibit Channel Traps (R447). -/
  | ict (o : Operand)
  -- Special purpose operations (48_special_purpose.md)
  /-- Set Bulk Storage Protect (R430). -/
  | sbp (o : Operand)
  -- Input-output operations (49_io_channel.md)
  /-- Enable Channel Traps (R448). -/
  | enb (o : Operand)
  -- channel commands and data control words (49_io_channel.md)
  /-- Sense (R454). -/
  | chSense (m : BitVec 4) (flags : CmdFlags) (y : Addr)
  /-- Read Backward (R454). -/
  | chReadBackward (m : BitVec 4) (flags : CmdFlags) (y : Addr)
  /-- Write (R454). -/
  | chWrite (m : BitVec 6) (flags : CmdFlags) (y : Addr)
  /-- Read (R454). -/
  | chRead (m : BitVec 6) (flags : CmdFlags) (y : Addr)
  /-- Control (R454). -/
  | chControl (m : BitVec 6) (flags : CmdFlags) (y : Addr)
  /-- Transfer in Channel (R455). -/
  | chTch (flags : CmdFlags) (y : Addr)
  /-- Execute (channel command) (R456). -/
  | chXec (flags : CmdFlags) (y : Addr)
  /-- Terminate Control Word (R459). -/
  | dcwTcw (c : BitVec 15) (y : Addr)
  /-- Terminate Control Word IA (R460). -/
  | dcwTcwInd (c : BitVec 15) (y : Addr)
  /-- Chain Control Word (R461). -/
  | dcwCcw (c : BitVec 15) (y : Addr)
  /-- Chain Control Word Non-Transmit (R462). -/
  | dcwCcwn (c : BitVec 15) (y : Addr)
  /-- Chain Control Word IA (R463). -/
  | dcwCcwInd (c : BitVec 15) (y : Addr)
  deriving DecidableEq, Repr

end Sys2Proof
end

