-- ==== Sys2Proof/Config.lean ====
section
/-! DEFINITION. The parameters of R8 and the free values: what the spec leaves open. An `opaque` constant
has no body, so nothing can be proved of its value; the others carry the spec's provisional default. -/

namespace Sys2Proof

/-- The nine channels a channel select word can name: the special channel and A to H (R441, R442). -/
inductive ChannelId where
  | special | a | b | c | d | e | f | g | h
  deriving DecidableEq, Repr, Inhabited

/-- The three kinds of channel trap (R467, R515). -/
inductive TrapKind where
  | ending | unusualEnd | attention
  deriving DecidableEq, Repr, Inhabited

/-- A spill report: which result characteristics left their range (R201). -/
structure Spill where
  acOverflow : Bool
  acUnderflow : Bool
  mqOverflow : Bool
  mqUnderflow : Bool
  deriving DecidableEq, Repr, Inhabited

/-- What a floating-point function of `NUMERICS` returns: both registers, the spill report and the
divide check (R201). -/
structure FpResult where
  ac : Acc
  mq : Word
  sp : Spill
  divCheck : Bool
  deriving DecidableEq, Repr, Inhabited

/-- `NUMERICS` (R8, R201, D38): the result functions of the floating-point instructions, FLT and FIX. `fdiv` and `dfdiv`
return the remainder in `ac` and the quotient in `mq`, as FDT places them; `fix` is of the word, AC and MQ. -/
structure Numerics where
  fadd : Acc → Word → Bool → FpResult
  fmul : Word → Word → Bool → FpResult
  fdiv : Acc → Word → FpResult
  fround : Acc → Word → Acc × Spill
  dfadd : Acc → Word → Word → Word → Bool → FpResult
  dfmul : Acc → Word → Word → Word → Bool → FpResult
  dfdiv : Acc → Word → Acc → Word → FpResult
  flt : Word → Acc
  fix : Word → Acc → Word → FpResult

/-- The causes that share the Floating Point or Divide Check trap (R503, R504). -/
inductive ArithmeticCause where
  | divideCheck
  | floatingPoint (i : Instr) (sp : Spill)
  deriving DecidableEq, Repr

/-- The causes that share the Protect Violation or Illegal Operation trap (R505, R506). -/
inductive ProgramCause where
  | protectViolation
  | illegalOperation
  deriving DecidableEq, Repr

/-- The ten fixed locations of the CPU TRAP LOCATIONS table (R79, R502). -/
inductive FixedLocation where
  | r1 | r2 | r3 | r4 | r5 | r6 | r7 | r8 | r9 | r10
  deriving DecidableEq, Repr, Inhabited

/-- The 74 instructions whose operation code the source leaves blank: the arguments of `OPMAP` (R115, D2). Their codes
are `Config.opmap`, in Decode.lean. -/
inductive OpenCode where
  | sxar | sqxt | sxat | stc | cht | sch | hch | ict | xlf | xlb | smx | lmx | ers | ados | ois | laci | lla
  | lra | dlld | dldn | stal | star | stan | dlsf | dstn | scpu | rcpu | imp | idv | frd | adxp | dfrd | tzm
  | tzp | tgz | tlz | tsl | smp | ltmr | stmr | sbp | enb | saci | lasi | casi | flt | fix | cdec | cbin
  | sqxl | lrtc | srtc | ctr | ptr | scar | cmon | adxs | adxd | adxi | sbxs | sbxd | sbxi | pchx | txf
  | txrh | txnh | txrl | txnl | txre | txne | lxs | cxs | cxd | cxi
  deriving DecidableEq, Repr, Inhabited

namespace Config

/-- `RESET_PC` (R8, R560). DESIGN CHOICE, log 4. -/
def resetPc : Addr := 0

/-- A permutation of the addresses from which `LOC_R1 .. LOC_R10` are taken: it says that the ten are
pairwise distinct and nothing else (D3, log 6). -/
opaque fixedLocations : Equiv.Perm Addr

/-- A permutation of the addresses from which the 24 `LOC_CHTRAP(ch, kind)` are taken (D3, log 6). -/
opaque channelTrapLocations : Equiv.Perm Addr

/-- `LOC_CSL`, the CPU status location (D3, log 6). -/
opaque statusLocation : Addr

/-- `LOC_CHW1 .. LOC_CHW3`, the words of the channel's trap store (D3, log 6). -/
opaque channelWordLocation : Fin 3 → Addr

/-- `SPILL1`, the word stored at R1 (R513, D46, log 12). -/
opaque spill1 : ArithmeticCause → Word

/-- `SPILL2`, the word stored at R2 (R513, D46, log 12). -/
opaque spill2 : ProgramCause → Word

/-- The word stored at R2 by an I/O instruction in Compatible Mode (R508, D49): never taken, log 53. -/
opaque compatibleOperationWord : BitVec 9 → Word

/-- The return address of an I/O trap in Compatible Mode: "not given" (R508, R511); never taken, log 53. -/
opaque compatibleReturn : Addr → Addr

/-- `NUMERICS.dfadd ac mq y0 y1 norm`: no reference is given (R201, R234, log 14). -/
opaque dfadd : Acc → Word → Word → Word → Bool → FpResult

/-- `NUMERICS.dfmul ac mq y0 y1 norm`: no reference is given (R201, R234, log 14). -/
opaque dfmul : Acc → Word → Word → Word → Bool → FpResult

/-- `NUMERICS.dfdiv`: dividend in accumulator form and low word, then the divisor likewise (R201, R228,
R229, R234, log 14). -/
opaque dfdiv : Acc → Word → Acc → Word → FpResult

/-- MQ after an IMP whose product fits (R188, D21): a free value, log 15. -/
opaque impMq : Nat → Word

/-- SI after DFMP, DUFM, DFDT, DFRD (R226, D38): a free value, log 16. -/
opaque doubleSi : Nat → Word

/-- AC after a FIX that traps (R422): a free value, log 17. -/
opaque fixAc : Nat → Acc

/-- MQ after a FIX that traps (R422): a free value, log 17. -/
opaque fixMq : Nat → Word

/-- `STATUS`: the word Channel Test stores, of the channel, the unit and the status the channel holds
(R444, D45): an oracle, log 44. -/
opaque channelStatus : Nat → ChannelId → BitVec 8 → Option Word → Word

/-- The two words SCH stores for the special channel, whose counters the spec does not describe (R442, R445): free
values, log 42. -/
opaque specialCounters : Nat → Fin 2 → Word

/-- `AVAILABLE` of a channel that is not busy (R444, D45): an oracle, log 44. -/
opaque available : Nat → ChannelId → BitVec 8 → Bool

/-- `CHW`: the three words a channel trap stores (R469, D45): an oracle, log 45. -/
opaque channelTrapWord : Nat → ChannelId → TrapKind → Fin 3 → Word

/-- Which deliverable channel trap is taken when the environment's script is exhausted (R517 a, D31):
a free value, log 46. -/
opaque trapChoice : Nat → Nat

/-- `MS_LAYOUT` provisional default: position of the Compatible Mode bit (R35, D4, log 7). -/
def msCompatPosition : Fin 18 := 0

/-- `MS_LAYOUT` provisional default: position of the Problem Program Mode bit (R35, D4, log 7). -/
def msProblemPosition : Fin 18 := 1

/-- `MS_LAYOUT` provisional default: position of the Transfer Trap Mode bit (R35, D4, log 7). -/
def msTransferTrapPosition : Fin 18 := 2

/-- `CAR_LAYOUT` provisional default: the position of the word at Y that SCAR loads a channel's bit from, that of the
channel in a channel select word (R37, R292, D34, log 9). -/
def carPosition : ChannelId → Fin 36
  | .special => 1 | .a => 2 | .b => 3 | .c => 4 | .d => 5 | .e => 6 | .f => 7 | .g => 8 | .h => 9

/-- `SCPU_LAYOUT` provisional default: positions of overflow, P, Q, High, Low, Equal (R165, D5, log 8). -/
def scpuOverflowPosition : Fin 18 := 0
/-- See `scpuOverflowPosition`. -/
def scpuPPosition : Fin 18 := 1
/-- See `scpuOverflowPosition`. -/
def scpuQPosition : Fin 18 := 2
/-- See `scpuOverflowPosition`. -/
def scpuHighPosition : Fin 18 := 3
/-- See `scpuOverflowPosition`. -/
def scpuLowPosition : Fin 18 := 4
/-- See `scpuOverflowPosition`. -/
def scpuEqualPosition : Fin 18 := 5

end Config

end Sys2Proof
end

