-- ==== Sys2Proof/Machine/Fields.lean ====
section
/-! DEFINITION. Fields of words and accumulator views (R9, R20): the one place where positions become bits. -/

namespace Sys2Proof.Machine

/-- The position `p` of a word, `S` being position 0 (R9). -/
def position (w : Word) (p : Nat) : Bool := w.getLsbD (35 - p)

/-- Positions S,1-17 (R71). -/
def leftHalf (w : Word) : Addr := w.extractLsb' 18 18

/-- Positions 18-35 (R71). -/
def rightHalf (w : Word) : Addr := w.extractLsb' 0 18

/-- A word from its two halves. -/
def joinHalves (l r : Addr) : Word := (l ++ r).cast rfl

/-- The sign position S (R11). -/
def signOf (w : Word) : Bool := w.msb

/-- The magnitude, positions 1-35 (R11). -/
def magnitude (w : Word) : BitVec 35 := w.extractLsb' 0 35

/-- A word from sign and magnitude (R11). -/
def signed (s : Bool) (m : BitVec 35) : Word := (BitVec.ofBool s ++ m).cast rfl

/-- `neg18`: the two's complement of an 18-bit value (R13). -/
def neg18 (v : Addr) : Addr := -v

/-- The operand of the Signed index instructions: `C(Y)<18-35>`, negated when the sign of C(Y) is minus
(R12, R333, R318). -/
def signedHalf (w : Word) : Addr := if signOf w then neg18 (rightHalf w) else rightHalf w

/-- The storage protection block of an address: its ten high-order bits (R80). -/
def blockOf (a : Addr) : BitVec 10 := a.extractLsb' 8 10

/-- The operation field S-8 (R101). -/
def operationField (w : Word) : BitVec 9 := w.extractLsb' 27 9

/-- The flag, tags and address field of an instruction or indirect-address word (R101, R108). -/
def operandField (w : Word) : Operand :=
  { f := w.getLsbD 26, t1 := w.extractLsb' 22 4, t2 := w.extractLsb' 18 4, y := w.extractLsb' 0 18 }

/-- An instruction word from its operation and operand part (R101). -/
def assemble (op : BitVec 9) (o : Operand) : Word :=
  (op ++ BitVec.ofBool o.f ++ o.t1 ++ o.t2 ++ o.y).cast rfl

end Sys2Proof.Machine

namespace Sys2Proof

open Sys2Proof.Machine

/-- Position Q of the accumulator (R20). -/
def Acc.q (a : Acc) : Bool := a.m.getLsbD 36

/-- Position P of the accumulator (R20). -/
def Acc.p (a : Acc) : Bool := a.m.getLsbD 35

/-- Positions 1-35 of the accumulator (R20). -/
def Acc.mag (a : Acc) : BitVec 35 := a.m.extractLsb' 0 35

/-- `ACL36 = P:1-35` (R13). -/
def Acc.logical (a : Acc) : Word := a.m.extractLsb' 0 36

/-- `ACW36 = S:1-35` (R13). -/
def Acc.signedWord (a : Acc) : Word := signed a.s a.mag

/-- An accumulator from its four parts (R20). -/
def Acc.make (s q p : Bool) (m : BitVec 35) : Acc :=
  { s := s, m := (BitVec.ofBool q ++ BitVec.ofBool p ++ m).cast rfl }

/-- The accumulator holding a signed word, Q and P zero (R141). -/
def Acc.ofSigned (w : Word) : Acc := Acc.make (signOf w) false false (magnitude w)

/-- The accumulator holding a logical word in P,1-35, S and Q zero (R142). -/
def Acc.ofLogical (w : Word) : Acc := { s := false, m := (BitVec.ofBool false ++ w).cast rfl }

/-- The accumulator with P,1-35 replaced, S and Q kept (R360). -/
def Acc.withLogical (a : Acc) (w : Word) : Acc := { a with m := (BitVec.ofBool a.q ++ w).cast rfl }

end Sys2Proof
end

