-- ==== Sys2Proof/WellFormed.lean ====
section
/-! DEFINITION. Which instruction terms stand for a word of the machine. -/

namespace Sys2Proof

/-- The selectors of an instruction of the two 370 groups (R111, R272, R273); `none` for every other
instruction. -/
def Instr.selectors : Instr → Option (List Addr)
  | .clm _ => some [0]
  | .lbt _ => some [1]
  | .chs _ => some [2]
  | .ssp _ => some [3]
  | .enk _ => some [4]
  | .com _ => some [6]
  | .etm _ => some [7]
  | .rnd _ => some [8]
  | .frn _ => some [9]
  | .pse _ => some [0o140, 0o141, 0o142, 0o143, 0o144, 0o161, 0o162, 0o163, 0o164, 0o165, 0o166]
  | .pbt _ => some [1]
  | .ssm _ => some [3]
  | .ltm _ => some [7]
  | .mse _ => some [0o141, 0o142, 0o143, 0o144]
  | _ => none

/-- The effective address `ea` selects the instruction: always, outside the 370 groups (R111). -/
def Instr.selectedBy (i : Instr) (ea : Addr) : Bool :=
  match i.selectors with
  | none => true
  | some l => l.contains ea

/-- The operand part forms its effective address from the address field alone (R104). -/
def Operand.isPlain (o : Operand) : Bool := !o.f && o.t1 == 0 && o.t2 == 0

/-- A member of a 370 group whose address is not modified must carry one of its selectors (R111). -/
def Instr.selectorOk (i : Instr) (o : Operand) : Bool := !o.isPlain || i.selectedBy o.y

/-- A channel command leaves its spare position zero (R452; 93_implementation_defined.md section 1: "must be
written as zero by software"). -/
def CmdFlags.wellFormed (f : CmdFlags) : Bool := !f.spare

/-- The check of an instruction term. -/
def Instr.wellFormed (i : Instr) : Bool :=
  match i with
  | .clm o | .lbt o | .chs o | .ssp o | .enk o | .com o | .etm o | .rnd o | .frn o | .pse o
  | .pbt o | .ssm o | .ltm o | .mse o => i.selectorOk o
  | .chSense _ f _ | .chReadBackward _ f _ | .chWrite _ f _ | .chRead _ f _ | .chControl _ f _
  | .chTch f _ | .chXec f _ => f.wellFormed
  | _ => true

end Sys2Proof
end

