-- ==== Sys2Proof/Decode.lean ====
section
/-! DEFINITION. Decoding and encoding of instruction words, channel commands and data control words (R111, R112,
R115, R121, R451, R458). -/

namespace Sys2Proof

open Sys2Proof.Machine

/-- Why a word is no instruction: an operation code, or a selector of a 370 group, assigned to none (R116). -/
inductive DecodeError where
  | unassignedOperation
  | unassignedSelector
  deriving DecidableEq, Repr

/-- `OPMAP`, the provisional default of R115: the one place where the codes the source leaves blank have values
(D2). DESIGN CHOICE, log 11. -/
def Config.opmap (c : OpenCode) : BitVec 9 :=
  match c with
  | .sxar => 0o230
  | .sqxt => 0o231
  | .sxat => 0o232
  | .stc => 0o233
  | .cht => 0o234
  | .sch => 0o235
  | .hch => 0o236
  | .ict => 0o237
  | .xlf => 0o260
  | .xlb => 0o261
  | .smx => 0o262
  | .lmx => 0o263
  | .ers => 0o264
  | .ados => 0o265
  | .ois => 0o266
  | .laci => 0o267
  | .lla => 0o320
  | .lra => 0o321
  | .dlld => 0o322
  | .dldn => 0o323
  | .stal => 0o324
  | .star => 0o325
  | .stan => 0o326
  | .dlsf => 0o327
  | .dstn => 0o330
  | .scpu => 0o331
  | .rcpu => 0o332
  | .imp => 0o333
  | .idv => 0o334
  | .frd => 0o335
  | .adxp => 0o336
  | .dfrd => 0o337
  | .tzm => 0o340
  | .tzp => 0o341
  | .tgz => 0o342
  | .tlz => 0o343
  | .tsl => 0o344
  | .smp => 0o345
  | .ltmr => 0o346
  | .stmr => 0o347
  | .sbp => 0o630
  | .enb => 0o631
  | .saci => 0o660
  | .lasi => 0o661
  | .casi => 0o662
  | .flt => 0o663
  | .fix => 0o664
  | .cdec => 0o665
  | .cbin => 0o666
  | .sqxl => 0o667
  | .lrtc => 0o720
  | .srtc => 0o721
  | .ctr => 0o722
  | .ptr => 0o723
  | .scar => 0o724
  | .cmon => 0o725
  | .adxs => 0o726
  | .adxd => 0o727
  | .adxi => 0o730
  | .sbxs => 0o731
  | .sbxd => 0o732
  | .sbxi => 0o733
  | .pchx => 0o734
  | .txf => 0o735
  | .txrh => 0o736
  | .txnh => 0o737
  | .txrl => 0o740
  | .txnl => 0o741
  | .txre => 0o742
  | .txne => 0o743
  | .lxs => 0o744
  | .cxs => 0o745
  | .cxd => 0o746
  | .cxi => 0o747

/-- A row of the operation-code map: the nine positions S-8 and the instruction they name (R102). -/
abbrev CodeRow := BitVec 9 × (Operand → Instr)

/-- Word transmission operations: the printed codes of R112 and, through `Config.opmap`, the open ones of R115. -/
def wordTransmissionCodes : List CodeRow :=
  [(0o240, .cla), (0o640, .cal), (0o242, .cls), (Config.opmap .lla, .lla), (Config.opmap .lra, .lra),
   (0o270, .ldq), (0o223, .dla), (Config.opmap .dlld, .dlld), (Config.opmap .dldn, .dldn), (0o301, .sto),
   (0o302, .slw), (Config.opmap .stal, .stal), (Config.opmap .star, .star), (Config.opmap .stan, .stan),
   (0o700, .stq), (0o710, .slq), (0o703, .dst), (Config.opmap .dlsf, .dlsf), (Config.opmap .dstn, .dstn),
   (0o300, .stz), (0o715, .stl), (0o051, .xca), (0o451, .xcl), (Config.opmap .scpu, .scpu),
   (Config.opmap .rcpu, .rcpu)]

/-- Fixed point operations: the printed codes of R112 and, through `Config.opmap`, the open ones of R115. -/
def fixedPointCodes : List CodeRow :=
  [(0o200, .add), (0o201, .adm), (0o171, .acl), (0o202, .sub), (0o600, .sbm), (0o100, .mpy), (0o500, .mpr),
   (Config.opmap .imp, .imp), (0o104, .vlm), (0o111, .dvt), (Config.opmap .idv, .idv), (0o115, .vdt)]

/-- Floating point operations: the printed codes of R112 and, through `Config.opmap`, the open ones of R115. -/
def floatingPointCodes : List CodeRow :=
  [(0o140, .fad), (0o144, .fam), (0o540, .ufa), (0o544, .uam), (0o142, .fsb), (0o146, .fsm), (0o542, .ufs),
   (0o546, .usm), (0o130, .fmp), (0o530, .ufm), (0o121, .fdt), (0o120, .fdh), (Config.opmap .frd, .frd),
   (Config.opmap .adxp, .adxp), (0o141, .dfad), (0o145, .dfam), (0o541, .dufa), (0o545, .duam), (0o143, .dfsb),
   (0o147, .dfsm), (0o543, .dufs), (0o547, .dusm), (0o131, .dfmp), (0o531, .dufm), (0o521, .dfdt),
   (Config.opmap .dfrd, .dfrd)]

/-- Shifting operations: the printed codes of R112 and, through `Config.opmap`, the open ones of R115. -/
def shiftingCodes : List CodeRow :=
  [(0o377, .als), (0o777, .ars), (0o373, .lls), (0o375, .lrs), (0o773, .lgl), (0o775, .lgr), (0o772, .rql)]

/-- Control operations: the printed codes of R112 and, through `Config.opmap`, the open ones of R115. -/
def controlCodes : List CodeRow :=
  [(0o371, .nop), (0o210, .hpr), (0o000, .htr), (0o252, .xec), (0o010, .tra), (0o011, .ttr), (0o040, .tze),
   (0o440, .tnz), (0o050, .tpl), (0o450, .tmi), (Config.opmap .tzm, .tzm), (Config.opmap .tzp, .tzp),
   (Config.opmap .tgz, .tgz), (Config.opmap .tlz, .tlz), (0o060, .tov), (0o460, .tno), (0o072, .tqp),
   (0o020, .tlq), (0o250, .zet), (0o650, .nzt), (0o160, .cas), (0o560, .las), (Config.opmap .tsl, .tsl),
   (Config.opmap .smp, .smp), (Config.opmap .ltmr, .ltmr), (Config.opmap .stmr, .stmr),
   (Config.opmap .lrtc, .lrtc), (Config.opmap .srtc, .srtc), (Config.opmap .ctr, .ctr),
   (Config.opmap .ptr, .ptr), (Config.opmap .scar, .scar), (Config.opmap .cmon, .cmon)]

/-- Index operations: the printed codes of R112 and, through `Config.opmap`, the open ones of R115. -/
def indexCodes : List CodeRow :=
  [(0o374, .axi), (0o774, .axc), (0o354, .pax), (0o357, .pac), (0o364, .pxa), (0o764, .pxd), (0o757, .pdc),
   (0o766, .pcd), (0o366, .pca), (0o314, .sxa), (0o714, .sxd), (0o316, .sca), (0o716, .scd), (0o254, .lxa),
   (0o654, .lxd), (0o255, .lac), (0o655, .ldc), (Config.opmap .adxs, .adxs), (Config.opmap .adxd, .adxd),
   (Config.opmap .adxi, .adxi), (Config.opmap .sbxs, .sbxs), (Config.opmap .sbxd, .sbxd),
   (Config.opmap .sbxi, .sbxi), (Config.opmap .pchx, .pchx), (0o041, .tsx), (Config.opmap .txf, .txf),
   (Config.opmap .txrh, .txrh), (Config.opmap .txnh, .txnh), (Config.opmap .txrl, .txrl),
   (Config.opmap .txnl, .txnl), (Config.opmap .txre, .txre), (Config.opmap .txne, .txne),
   (Config.opmap .lxs, .lxs), (Config.opmap .cxs, .cxs), (Config.opmap .cxd, .cxd), (Config.opmap .cxi, .cxi),
   (Config.opmap .xlf, .xlf), (Config.opmap .xlb, .xlb), (Config.opmap .smx, .smx), (Config.opmap .lmx, .lmx)]

/-- Logical operations: the printed codes of R112 and, through `Config.opmap`, the open ones of R115. -/
def logicalCodes : List CodeRow :=
  [(0o641, .ora), (0o702, .ors), (0o550, .ana), (0o150, .ans), (0o152, .era), (Config.opmap .ers, .ers),
   (Config.opmap .ados, .ados)]

/-- Sense indicator operations: the printed codes of R112 and, through `Config.opmap`, the open ones of R115. -/
def senseIndicatorCodes : List CodeRow :=
  [(0o221, .ldi), (0o304, .sti), (0o024, .pai), (0o426, .pia), (0o023, .oai), (0o222, .osi),
   (Config.opmap .ois, .ois), (0o437, .ril), (0o037, .rir), (0o435, .sil), (0o035, .sir), (0o422, .ria),
   (0o225, .ris), (0o021, .iia), (0o220, .iis), (0o431, .iil), (0o031, .iir), (0o224, .oft), (0o226, .ont),
   (0o034, .rft), (0o036, .rnt), (0o434, .lft), (0o436, .lnt), (Config.opmap .laci, .laci),
   (Config.opmap .saci, .saci), (Config.opmap .lasi, .lasi), (Config.opmap .casi, .casi)]

/-- Special purpose operations: the printed codes of R112 and, through `Config.opmap`, the open ones of R115. -/
def specialPurposeCodes : List CodeRow :=
  [(Config.opmap .flt, .flt), (Config.opmap .fix, .fix), (Config.opmap .cdec, .cdec),
   (Config.opmap .cbin, .cbin), (Config.opmap .sqxl, .sqxl), (Config.opmap .sxar, .sxar),
   (Config.opmap .sqxt, .sqxt), (Config.opmap .sxat, .sxat), (Config.opmap .sbp, .sbp)]

/-- Input-output operations: the printed codes of R112 and, through `Config.opmap`, the open ones of R115. -/
def inputOutputCodes : List CodeRow :=
  [(Config.opmap .stc, .stc), (Config.opmap .cht, .cht), (Config.opmap .sch, .sch), (Config.opmap .hch, .hch),
   (Config.opmap .ict, .ict), (Config.opmap .enb, .enb)]

/-- The operation-code map outside the two 370 groups (R112, R115). -/
def operationCodes : List CodeRow :=
  wordTransmissionCodes ++ fixedPointCodes ++ floatingPointCodes ++
  shiftingCodes ++ controlCodes ++ indexCodes ++
  logicalCodes ++ senseIndicatorCodes ++ specialPurposeCodes ++
  inputOutputCodes

/-- The selectors of a 370 group and the instructions they name (R111, R272, R273). -/
abbrev SelectorRow := Addr × (Operand → Instr)

/-- The `+370` group (R111). -/
def plusSelectors : List SelectorRow :=
  [(0o0, .clm), (0o1, .lbt), (0o2, .chs), (0o3, .ssp), (0o4, .enk), (0o6, .com), (0o7, .etm),
   (0o10, .rnd), (0o11, .frn), (0o140, .pse), (0o141, .pse), (0o142, .pse), (0o143, .pse),
   (0o144, .pse), (0o161, .pse), (0o162, .pse), (0o163, .pse), (0o164, .pse), (0o165, .pse),
   (0o166, .pse)]

/-- The `-370` group (R111). -/
def minusSelectors : List SelectorRow :=
  [(0o1, .pbt), (0o3, .ssm), (0o7, .ltm), (0o141, .mse), (0o142, .mse), (0o143, .mse),
   (0o144, .mse)]

/-- The selector table of an operation code of the 370 groups (R111). -/
def selectorTable (op : BitVec 9) : Option (List SelectorRow) :=
  if op = 0o370 then some plusSelectors
  else if op = 0o770 then some minusSelectors
  else none

/-- The word belongs to a 370 group: its decoding needs its effective address (R121). -/
def needsSelector (w : Word) : Bool := (selectorTable (operationField w)).isSome

/-- Decoding of a processor instruction word. `ea` is its double-indexed effective address; only the 370
groups look at it (R121). -/
def decodeCpu (w : Word) (ea : Addr) : Except DecodeError Instr :=
  match selectorTable (operationField w) with
  | some table =>
    match table.lookup ea with
    | some build => .ok (build (operandField w))
    | none => .error .unassignedSelector
  | none =>
    match operationCodes.lookup (operationField w) with
    | some build => .ok (build (operandField w))
    | none => .error .unassignedOperation

/-- The command flags of a channel command, positions 12-17 (R452). -/
def flagsField (w : Word) : CmdFlags :=
  { spare := w.getLsbD 23, sixBit := w.getLsbD 22, bcd := w.getLsbD 21, advance := w.getLsbD 20,
    indirect := w.getLsbD 19, immediate := w.getLsbD 18 }

/-- A word is a channel command: positions S,1,2 are ones (R451). -/
def isCommand (w : Word) : Bool := w.extractLsb' 33 3 == 7

/-- Decoding of a control unit operation by its positions 10-11 and 8-9 (R451). -/
def decodeControlUnit (w : Word) : Option Instr :=
  let flags := flagsField w
  let y := rightHalf w
  if w.extractLsb' 24 2 = 1 then some (.chWrite (w.extractLsb' 26 6) flags y)
  else if w.extractLsb' 24 2 = 2 then some (.chRead (w.extractLsb' 26 6) flags y)
  else if w.extractLsb' 24 2 = 3 then some (.chControl (w.extractLsb' 26 6) flags y)
  else if w.extractLsb' 26 2 = 1 then some (.chSense (w.extractLsb' 28 4) flags y)
  else if w.extractLsb' 26 2 = 3 then some (.chReadBackward (w.extractLsb' 28 4) flags y)
  else none

/-- Decoding of a channel command (R451). -/
def decodeCommand (w : Word) : Option Instr :=
  if w.getLsbD 32 = false then decodeControlUnit w
  else if w.extractLsb' 24 8 = 0 then some (.chTch (flagsField w) (rightHalf w))
  else if w.extractLsb' 24 8 = 1 then some (.chXec (flagsField w) (rightHalf w))
  else none

/-- Decoding of a data control word by its positions S,1,2 (R457, R458). -/
def decodeControlWord (w : Word) : Option Instr :=
  let c := w.extractLsb' 18 15
  let y := rightHalf w
  if w.extractLsb' 33 3 = 0 then some (.dcwTcw c y)
  else if w.extractLsb' 33 3 = 2 then some (.dcwTcwInd c y)
  else if w.extractLsb' 33 3 = 4 then some (.dcwCcw c y)
  else if w.extractLsb' 33 3 = 5 then some (.dcwCcwn c y)
  else if w.extractLsb' 33 3 = 6 then some (.dcwCcwInd c y)
  else none

/-- Decoding of a word a channel meets: a command or a data control word; `none` where the spec assigns no
operation (R451, R458). -/
def decodeChannel (w : Word) : Option Instr :=
  if isCommand w then decodeCommand w else decodeControlWord w

/-- The processor instruction of a table word: its address field is its effective address, as with flag and
tags zero or index registers zero (R104, R121, log 30). -/
def decodeTableWord (nbits w : Nat) : Option Instr :=
  if 40 < nbits ∨ 2 ^ 36 ≤ w then none
  else
    match decodeCpu (BitVec.ofNat 36 w) (rightHalf (BitVec.ofNat 36 w)) with
    | .ok i => some i
    | .error _ => none

/-- Positions 12-17 of a command from its flags (R452). -/
def CmdFlags.bits (f : CmdFlags) : BitVec 6 :=
  (BitVec.ofBool f.spare ++ BitVec.ofBool f.sixBit ++ BitVec.ofBool f.bcd ++ BitVec.ofBool f.advance
    ++ BitVec.ofBool f.indirect ++ BitVec.ofBool f.immediate).cast rfl

/-- A command word: operation S-11, flags 12-17, address 18-35 (R450). -/
def assembleCommand (opn : BitVec 12) (f : CmdFlags) (y : Addr) : Word :=
  (opn ++ f.bits ++ y).cast rfl

/-- A data control word: operation S,1,2, count 3-17, address 18-35 (R457). -/
def assembleControlWord (opn : BitVec 3) (c : BitVec 15) (y : Addr) : Word :=
  (opn ++ c ++ y).cast rfl

/-- The word of an instruction, from the code column of R112 and R115 and the bit tables of R451 and R458. -/
def encode (i : Instr) : Word :=
  match i with
  | .cla o => assemble 0o240 o
  | .cal o => assemble 0o640 o
  | .cls o => assemble 0o242 o
  | .lla o => assemble (Config.opmap .lla) o
  | .lra o => assemble (Config.opmap .lra) o
  | .ldq o => assemble 0o270 o
  | .dla o => assemble 0o223 o
  | .dlld o => assemble (Config.opmap .dlld) o
  | .dldn o => assemble (Config.opmap .dldn) o
  | .sto o => assemble 0o301 o
  | .slw o => assemble 0o302 o
  | .stal o => assemble (Config.opmap .stal) o
  | .star o => assemble (Config.opmap .star) o
  | .stan o => assemble (Config.opmap .stan) o
  | .stq o => assemble 0o700 o
  | .slq o => assemble 0o710 o
  | .dst o => assemble 0o703 o
  | .dlsf o => assemble (Config.opmap .dlsf) o
  | .dstn o => assemble (Config.opmap .dstn) o
  | .stz o => assemble 0o300 o
  | .stl o => assemble 0o715 o
  | .xca o => assemble 0o051 o
  | .xcl o => assemble 0o451 o
  | .enk o => assemble 0o370 o
  | .scpu o => assemble (Config.opmap .scpu) o
  | .rcpu o => assemble (Config.opmap .rcpu) o
  | .add o => assemble 0o200 o
  | .adm o => assemble 0o201 o
  | .acl o => assemble 0o171 o
  | .sub o => assemble 0o202 o
  | .sbm o => assemble 0o600 o
  | .mpy o => assemble 0o100 o
  | .mpr o => assemble 0o500 o
  | .imp o => assemble (Config.opmap .imp) o
  | .vlm o => assemble 0o104 o
  | .rnd o => assemble 0o370 o
  | .dvt o => assemble 0o111 o
  | .idv o => assemble (Config.opmap .idv) o
  | .vdt o => assemble 0o115 o
  | .fad o => assemble 0o140 o
  | .fam o => assemble 0o144 o
  | .ufa o => assemble 0o540 o
  | .uam o => assemble 0o544 o
  | .fsb o => assemble 0o142 o
  | .fsm o => assemble 0o146 o
  | .ufs o => assemble 0o542 o
  | .usm o => assemble 0o546 o
  | .fmp o => assemble 0o130 o
  | .ufm o => assemble 0o530 o
  | .frn o => assemble 0o370 o
  | .fdt o => assemble 0o121 o
  | .fdh o => assemble 0o120 o
  | .frd o => assemble (Config.opmap .frd) o
  | .adxp o => assemble (Config.opmap .adxp) o
  | .dfad o => assemble 0o141 o
  | .dfam o => assemble 0o145 o
  | .dufa o => assemble 0o541 o
  | .duam o => assemble 0o545 o
  | .dfsb o => assemble 0o143 o
  | .dfsm o => assemble 0o147 o
  | .dufs o => assemble 0o543 o
  | .dusm o => assemble 0o547 o
  | .dfmp o => assemble 0o131 o
  | .dufm o => assemble 0o531 o
  | .dfdt o => assemble 0o521 o
  | .dfrd o => assemble (Config.opmap .dfrd) o
  | .als o => assemble 0o377 o
  | .ars o => assemble 0o777 o
  | .lls o => assemble 0o373 o
  | .lrs o => assemble 0o375 o
  | .lgl o => assemble 0o773 o
  | .lgr o => assemble 0o775 o
  | .rql o => assemble 0o772 o
  | .nop o => assemble 0o371 o
  | .hpr o => assemble 0o210 o
  | .htr o => assemble 0o000 o
  | .xec o => assemble 0o252 o
  | .tra o => assemble 0o010 o
  | .ttr o => assemble 0o011 o
  | .tze o => assemble 0o040 o
  | .tnz o => assemble 0o440 o
  | .tpl o => assemble 0o050 o
  | .tmi o => assemble 0o450 o
  | .tzm o => assemble (Config.opmap .tzm) o
  | .tzp o => assemble (Config.opmap .tzp) o
  | .tgz o => assemble (Config.opmap .tgz) o
  | .tlz o => assemble (Config.opmap .tlz) o
  | .tov o => assemble 0o060 o
  | .tno o => assemble 0o460 o
  | .tqp o => assemble 0o072 o
  | .tlq o => assemble 0o020 o
  | .pse o => assemble 0o370 o
  | .mse o => assemble 0o770 o
  | .pbt o => assemble 0o770 o
  | .lbt o => assemble 0o370 o
  | .zet o => assemble 0o250 o
  | .nzt o => assemble 0o650 o
  | .cas o => assemble 0o160 o
  | .las o => assemble 0o560 o
  | .tsl o => assemble (Config.opmap .tsl) o
  | .smp o => assemble (Config.opmap .smp) o
  | .etm o => assemble 0o370 o
  | .ltm o => assemble 0o770 o
  | .ltmr o => assemble (Config.opmap .ltmr) o
  | .stmr o => assemble (Config.opmap .stmr) o
  | .lrtc o => assemble (Config.opmap .lrtc) o
  | .srtc o => assemble (Config.opmap .srtc) o
  | .ctr o => assemble (Config.opmap .ctr) o
  | .ptr o => assemble (Config.opmap .ptr) o
  | .scar o => assemble (Config.opmap .scar) o
  | .cmon o => assemble (Config.opmap .cmon) o
  | .axi o => assemble 0o374 o
  | .axc o => assemble 0o774 o
  | .pax o => assemble 0o354 o
  | .pac o => assemble 0o357 o
  | .pxa o => assemble 0o364 o
  | .pxd o => assemble 0o764 o
  | .pdc o => assemble 0o757 o
  | .pcd o => assemble 0o766 o
  | .pca o => assemble 0o366 o
  | .sxa o => assemble 0o314 o
  | .sxd o => assemble 0o714 o
  | .sca o => assemble 0o316 o
  | .scd o => assemble 0o716 o
  | .lxa o => assemble 0o254 o
  | .lxd o => assemble 0o654 o
  | .lac o => assemble 0o255 o
  | .ldc o => assemble 0o655 o
  | .adxs o => assemble (Config.opmap .adxs) o
  | .adxd o => assemble (Config.opmap .adxd) o
  | .adxi o => assemble (Config.opmap .adxi) o
  | .sbxs o => assemble (Config.opmap .sbxs) o
  | .sbxd o => assemble (Config.opmap .sbxd) o
  | .sbxi o => assemble (Config.opmap .sbxi) o
  | .pchx o => assemble (Config.opmap .pchx) o
  | .tsx o => assemble 0o041 o
  | .txf o => assemble (Config.opmap .txf) o
  | .txrh o => assemble (Config.opmap .txrh) o
  | .txnh o => assemble (Config.opmap .txnh) o
  | .txrl o => assemble (Config.opmap .txrl) o
  | .txnl o => assemble (Config.opmap .txnl) o
  | .txre o => assemble (Config.opmap .txre) o
  | .txne o => assemble (Config.opmap .txne) o
  | .lxs o => assemble (Config.opmap .lxs) o
  | .cxs o => assemble (Config.opmap .cxs) o
  | .cxd o => assemble (Config.opmap .cxd) o
  | .cxi o => assemble (Config.opmap .cxi) o
  | .xlf o => assemble (Config.opmap .xlf) o
  | .xlb o => assemble (Config.opmap .xlb) o
  | .smx o => assemble (Config.opmap .smx) o
  | .lmx o => assemble (Config.opmap .lmx) o
  | .ora o => assemble 0o641 o
  | .ors o => assemble 0o702 o
  | .ana o => assemble 0o550 o
  | .ans o => assemble 0o150 o
  | .era o => assemble 0o152 o
  | .ers o => assemble (Config.opmap .ers) o
  | .com o => assemble 0o370 o
  | .clm o => assemble 0o370 o
  | .chs o => assemble 0o370 o
  | .ssp o => assemble 0o370 o
  | .ssm o => assemble 0o770 o
  | .ados o => assemble (Config.opmap .ados) o
  | .ldi o => assemble 0o221 o
  | .sti o => assemble 0o304 o
  | .pai o => assemble 0o024 o
  | .pia o => assemble 0o426 o
  | .oai o => assemble 0o023 o
  | .osi o => assemble 0o222 o
  | .ois o => assemble (Config.opmap .ois) o
  | .ril o => assemble 0o437 o
  | .rir o => assemble 0o037 o
  | .sil o => assemble 0o435 o
  | .sir o => assemble 0o035 o
  | .ria o => assemble 0o422 o
  | .ris o => assemble 0o225 o
  | .iia o => assemble 0o021 o
  | .iis o => assemble 0o220 o
  | .iil o => assemble 0o431 o
  | .iir o => assemble 0o031 o
  | .oft o => assemble 0o224 o
  | .ont o => assemble 0o226 o
  | .rft o => assemble 0o034 o
  | .rnt o => assemble 0o036 o
  | .lft o => assemble 0o434 o
  | .lnt o => assemble 0o436 o
  | .laci o => assemble (Config.opmap .laci) o
  | .saci o => assemble (Config.opmap .saci) o
  | .lasi o => assemble (Config.opmap .lasi) o
  | .casi o => assemble (Config.opmap .casi) o
  | .flt o => assemble (Config.opmap .flt) o
  | .fix o => assemble (Config.opmap .fix) o
  | .cdec o => assemble (Config.opmap .cdec) o
  | .cbin o => assemble (Config.opmap .cbin) o
  | .sqxl o => assemble (Config.opmap .sqxl) o
  | .sxar o => assemble (Config.opmap .sxar) o
  | .sqxt o => assemble (Config.opmap .sqxt) o
  | .sxat o => assemble (Config.opmap .sxat) o
  | .stc o => assemble (Config.opmap .stc) o
  | .cht o => assemble (Config.opmap .cht) o
  | .sch o => assemble (Config.opmap .sch) o
  | .hch o => assemble (Config.opmap .hch) o
  | .ict o => assemble (Config.opmap .ict) o
  | .sbp o => assemble (Config.opmap .sbp) o
  | .enb o => assemble (Config.opmap .enb) o
  | .chSense m f y => assembleCommand (((0b1110 : BitVec 4) ++ m ++ (0b0100 : BitVec 4)).cast rfl) f y
  | .chReadBackward m f y => assembleCommand (((0b1110 : BitVec 4) ++ m ++ (0b1100 : BitVec 4)).cast rfl) f y
  | .chWrite m f y => assembleCommand (((0b1110 : BitVec 4) ++ m ++ (0b01 : BitVec 2)).cast rfl) f y
  | .chRead m f y => assembleCommand (((0b1110 : BitVec 4) ++ m ++ (0b10 : BitVec 2)).cast rfl) f y
  | .chControl m f y => assembleCommand (((0b1110 : BitVec 4) ++ m ++ (0b11 : BitVec 2)).cast rfl) f y
  | .chTch f y => assembleCommand 0o7400 f y
  | .chXec f y => assembleCommand 0o7401 f y
  | .dcwTcw c y => assembleControlWord 0 c y
  | .dcwTcwInd c y => assembleControlWord 2 c y
  | .dcwCcw c y => assembleControlWord 4 c y
  | .dcwCcwn c y => assembleControlWord 5 c y
  | .dcwCcwInd c y => assembleControlWord 6 c y

/-- The instruction is one the processor executes (the others are the channel's, R440, R450). -/
def Instr.isCpu (i : Instr) : Bool :=
  match i with
  | .chSense .. | .chReadBackward .. | .chWrite .. | .chRead .. | .chControl .. | .chTch .. | .chXec ..
  | .dcwTcw .. | .dcwTcwInd .. | .dcwCcw .. | .dcwCcwn .. | .dcwCcwInd .. => false
  | _ => true

end Sys2Proof
end

