-- ==== Sys2Proof/Machine/State.lean ====
section
/-! DEFINITION. The machine's state as plain data, its faults and refusals, and the state after reset
(spec/10_state.md; the list is INVENTORY.md, '## State'). -/

namespace Sys2Proof.Machine

/-- The four operations of a control unit, as the channel's sequencing tells them apart: which way words move
(R454; PRESUMED direction, log 38). -/
inductive UnitOperation where
  | sense | readBackward | write | read | control
  deriving DecidableEq, Repr, Inhabited

/-- The current command of a channel: its operation, positions 4-11 as sent to the control unit, and its flags
(R39, R451, R452). -/
structure Command where
  operation : UnitOperation
  order : BitVec 8
  flags : CmdFlags
  y : Addr
  deriving DecidableEq, Repr, Inhabited

/-- Where a channel stands in the sequencing of R466. `fetch` and `decode` carry the current command when the
word wanted is its data control word, and none when it is a command. `object` is where an XEC with its I/A flag on has
its object's address and has not read the object (R456, R77). `environment` is where a rule ends the channel's own
sequence and hands it to the environment (R461, R472). -/
inductive Phase where
  | idle
  | fetch (current : Option Command)
  | decode (current : Option Command) (w : Word)
  | object (a : Addr)
  | transmit (cmd : Command) (chain noTransmission : Bool)
  | complete (cmd : Command)
  | environment
  deriving DecidableEq, Repr, Inhabited

/-- The working state of one channel and its trap gates (R38, R39, R468). -/
structure Channel where
  unit : BitVec 8
  lc : Addr
  wc : BitVec 15
  da : Addr
  inhibit : Bool
  haltRequest : Bool
  /-- Previous status; `none` is "cleared" (R443). -/
  status : Option Word
  /-- ENBMASK, positions 30-35 of the ENB word, position 30 the most significant (R448). -/
  enb : BitVec 6
  pendingEnd : Bool
  pendingUnusual : Bool
  pendingAttention : Bool
  /-- An attention received while the channel was in use (R467 b). -/
  attentionWaiting : Bool
  /-- An I/O instruction has handed the channel to the environment, its own sequence going on: a violating store of
  CHT or SCH, or CHT, SCH, HCH, ICT or ENB selecting the special channel (R83, R442, R471; log 75). -/
  handed : Bool
  phase : Phase
  deriving DecidableEq, Repr, Inhabited

/-- The unusual conditions a control unit reports at the completion of a command (R467). -/
structure Conditions where
  dataError : Bool
  exceptional : Bool
  intervention : Bool
  incorrectLength : Bool
  deriving DecidableEq, Repr, Inhabited

/-- What the devices and control unit answer to one channel step: every oracle of R466. -/
structure DeviceReply where
  endSignal : Bool
  word : Word
  /-- The next data address of a Read Backward, whose step the spec leaves open (R466, log 40). -/
  nextAddress : Addr
  conditions : Conditions
  /-- The status the channel holds after a completed command (log 44). -/
  status : Option Word
  deriving DecidableEq, Repr, Inhabited

/-- What the environment may do with a channel that a rule has handed to it (R472 a). `attention` is the chain
condition, the one condition of that kind a channel meets itself; a control unit's attention signal is
`Turn.attention` (R467). `carryOn` ends what an I/O instruction has handed over and leaves the channel as it is. -/
inductive EnvironmentAct where
  | store (a : Addr) (w : Word)
  | endCondition
  | unusualEnd (c : Conditions)
  | attention
  | counters (lc : Addr) (wc : BitVec 15) (da : Addr)
  | status (w : Option Word)
  | resume (p : Phase)
  | stop
  | carryOn
  deriving DecidableEq, Repr, Inhabited

/-- One turn of an agent that shares storage with the processor: it may fall between two steps of the processor or
between two storage accesses of one instruction (R77, R87, R564; log 33). -/
inductive Turn where
  /-- Channel `ch` takes its next step (R466). -/
  | channel (ch : ChannelId) (reply : DeviceReply)
  /-- The environment acts for a channel handed to it (R472 a). -/
  | environment (ch : ChannelId) (act : EnvironmentAct)
  /-- Attention or unit freed from the control unit (R467). -/
  | attention (ch : ChannelId)
  deriving DecidableEq, Repr, Inhabited

/-- One event of the run outside the program's control: which agent moves next and what the outside world does
(R48, R472, R564; log 36). -/
inductive Event where
  /-- The processor takes its next step; `pick` chooses among deliverable channel traps (R517 a), and `inside` lists
  the turns that fall before each of the step's storage accesses after its fetch (R77, R564; log 33). -/
  | cpu (pick : Nat) (inside : List (List Turn))
  /-- Another agent takes a turn between two steps of the processor. -/
  | turn (t : Turn)
  /-- The operator presses START (R256). -/
  | start
  /-- The operator sets the entry keys (R40). -/
  | keys (w : Word)
  /-- The operator sets the sense switches (R41). -/
  | switches (b : BitVec 6)
  deriving DecidableEq, Repr, Inhabited

/-- What a channel has sent to a control unit: an operation with the unit address, a word of storage, or the
six control bits 4-9 of a Control Immediate (R454, R466). -/
inductive Sent where
  | order (ch : ChannelId) (unit : BitVec 8) (bits : BitVec 8)
  | word (ch : ChannelId) (w : Word)
  deriving DecidableEq, Repr, Inhabited

/-- Storage: the words that have a value, addresses strictly rising (R45; log 1). -/
abbrev Memory := List (Nat × Word)

/-- The state of the machine. -/
structure State where
  /-- AC (R20). -/
  ac : Acc
  /-- MQ (R21). -/
  mq : Word
  /-- SI (R22). -/
  si : Word
  /-- XR1 to XR15; XR`t` is entry `t - 1` (R23). -/
  xr : Vector Addr 15
  /-- PC (R26). -/
  pc : Addr
  /-- IL, the location of the current instruction (R27). -/
  il : Addr
  /-- The overflow trigger (R29). -/
  ov : Bool
  /-- Index compare indicator High (R30). -/
  ixh : Bool
  /-- Index compare indicator Low (R30). -/
  ixl : Bool
  /-- Index compare indicator Equal (R30). -/
  ixe : Bool
  /-- Sense lights; SL`n` is bit `n - 1` (R42). -/
  lights : BitVec 4
  /-- Entry keys (R40). -/
  keys : Word
  /-- Sense switches; switch `n` is bit `n - 1`, one is down (R41). -/
  switches : BitVec 6
  /-- 7094-Compatible Mode (R32). -/
  compat : Bool
  /-- Problem Program Mode (R33). -/
  problem : Bool
  /-- Transfer Trap Mode (R34). -/
  ttrap : Bool
  /-- HALTED (R44). -/
  halted : Bool
  /-- HPR10 (R36). -/
  hpr : BitVec 10
  /-- LPR10 (R36). -/
  lpr : BitVec 10
  /-- CAR, laid out as positions 1-9 of a channel select word (R37). -/
  car : BitVec 9
  /-- CTI, the automatic channel-trap inhibit (R38). -/
  cti : Bool
  /-- ICTMASK, laid out as positions 1-9 of a channel select word (R38). -/
  ictMask : BitVec 9
  /-- The nine channels: special, A to H (R39, R442). -/
  channels : Vector Channel 9
  /-- Core storage (R45). -/
  mem : Memory
  /-- The model's own: the channel whose command or control word is executed (log 36). -/
  acting : ChannelId
  /-- The model's own: the events still to come (log 36). -/
  script : List Event
  /-- The model's own: what channels have sent to control units, newest first (log 36). -/
  outbox : List Sent
  /-- The model's own: the counter the free values are applied to (log 36). -/
  tick : Nat
  /-- The model's own: the turns of other agents before each coming storage access of the running step (log 33). -/
  inside : List (List Turn)
  deriving DecidableEq, Repr

/-- Why a step stops without a next state. -/
inductive Fault where
  /-- A storage word that nothing has written is read by the processor or a channel (R49, R140 e). Safe. -/
  | unwrittenStorage
  /-- An indirect-address chain that never ends: the instruction does not complete (R106, D47). Safe. -/
  | endlessIndirectChain
  /-- A chain of XEC that never reaches another instruction (R255 d). Safe. -/
  | endlessExecuteChain
  deriving DecidableEq, Repr

/-- Why the model has no meaning to give. -/
inductive Refusal where
  /-- The instruction has no meaning in the model yet. Raised only by `exec`. Safe. -/
  | notModelled (mnemonic : String)
  /-- COMPAT = 1 at the start of a step (R6, R500). Safe. -/
  | compatibleMode
  /-- An operation code assigned to no instruction (R116). Safe. -/
  | unassignedOperation
  /-- A selector of a 370 group assigned to no instruction (R111, R116). Safe. -/
  | unassignedSelector
  /-- An instruction the source leaves "(To Be Defined)": CDEC, CBIN, LTMR, STMR, LRTC, SRTC (R540). Safe. -/
  | toBeDefined
  /-- SBP: a name and nothing else (R430). Safe. -/
  | notDescribed
  /-- IMP, IDV or FRD with AC.Q or AC.P set (R188, R192, R216). Safe. -/
  | operandAboveWord
  /-- SQXT or SXAT with Tag 1 naming XR1 (R425, R426). Safe. -/
  | indexOneAsCount
  /-- STC, CHT or SCH whose channel select word does not select exactly one channel (R442). Safe. -/
  | notOneChannel
  /-- TCW* or CCW* whose indirect word has its sign on (R460, R463, C26). Safe. -/
  | wideDataAddress
  deriving DecidableEq, Repr

/-- The outcome of an instruction. -/
abbrev Result := Host.Outcome State Fault Refusal

/-- A channel right after reset: idle, nothing enabled, nothing pending (R49, D14; log 5). -/
def Channel.reset : Channel :=
  { unit := 0, lc := 0, wc := 0, da := 0, inhibit := false, haltRequest := false, status := none, enb := 0,
    pendingEnd := false, pendingUnusual := false, pendingAttention := false, attentionWaiting := false,
    handed := false, phase := .idle }

/-- The machine right after reset. COMPAT and PROBLEM are the source's (R560); every other value is named in
log 3, log 4 or log 5; storage has no word with a value. -/
def State.reset : State :=
  { ac := { s := false, m := 0 }, mq := 0, si := 0, xr := Vector.replicate 15 0, pc := Config.resetPc, il := 0,
    ov := false, ixh := false, ixl := false, ixe := false, lights := 0, keys := 0, switches := 0,
    compat := false, problem := false, ttrap := false, halted := false, hpr := 0, lpr := 0, car := 0,
    cti := false, ictMask := BitVec.allOnes 9, channels := Vector.replicate 9 Channel.reset, mem := [],
    acting := .special, script := [], outbox := [], tick := 0, inside := [] }

end Sys2Proof.Machine
end

