-- ==== Sys2Proof/Machine/Storage.lean ====
section
/-! DEFINITION. The named operations over storage, index registers, modes, protection and channels that no agent's
turn can come between (spec/20_memory.md, spec/49_io_channel.md). -/

namespace Sys2Proof.Machine

/-! ## Storage -/

/-- The word at an address, `none` where nothing has a value. -/
def Memory.read : Memory → Nat → Option Word
  | [], _ => none
  | (b, w) :: m, a => if a = b then some w else Memory.read m a

/-- Storage with one word replaced; addresses stay strictly rising. -/
def Memory.write : Memory → Nat → Word → Memory
  | [], a, v => [(a, v)]
  | (b, w) :: m, a, v =>
    if a < b then (a, v) :: (b, w) :: m
    else if a = b then (a, v) :: m
    else (b, w) :: Memory.write m a v

/-- Addresses are strictly rising from `lo` on and below 2^18. -/
def Memory.risesFrom : Nat → Memory → Bool
  | _, [] => true
  | lo, (a, _) :: m => decide (lo ≤ a) && decide (a < 2 ^ 18) && Memory.risesFrom (a + 1) m

/-- The canonical form: addresses strictly rising and below 2^18. An unlisted word has no value, so no entry
can equal what it reads as (log 1, log 2). -/
def Memory.wf (m : Memory) : Bool := Memory.risesFrom 0 m

/-- `MemRead` (R72): `none` where the word has no value (R49). -/
def State.load (s : State) (a : Addr) : Option Word := s.mem.read a.toNat

/-- A store without a check: the hardware's own stores (R84) and the end of every checked one. -/
def State.poke (s : State) (a : Addr) (w : Word) : State := { s with mem := s.mem.write a.toNat w }

/-- Read a word and go on, with no turn of another agent before the access: the fetch of an instruction and every
access of a channel. A word without a value stops the model (R49, R140 e). -/
def readWord (s : State) (a : Addr) (k : Word → Result) : Result :=
  match s.load a with
  | some w => k w
  | none => .fault .unwrittenStorage

/-- Go on from the next state of an outcome. -/
def andThen (r : Result) (k : State → Result) : Result :=
  match r with
  | .next s => k s
  | .fault f => .fault f
  | .refused f => .refused f

/-! ## Registers -/

/-- `X(n)`: zero for tag zero, else the index register (R13, R24). -/
def State.x (s : State) (n : Nat) : Addr := if n = 0 then 0 else s.xr[n - 1]?.getD 0

/-- `SetX(n, v)`: nothing for tag zero (R13, R24). -/
def State.setX (s : State) (n : Nat) (v : Addr) : State :=
  if n = 0 then s else { s with xr := s.xr.setIfInBounds (n - 1) v }

/-- `skip(n)` (R251). -/
def State.skip (s : State) (n : Addr) : State := { s with pc := s.pc + n }

/-- `if b: skip(1)`. -/
def State.skipIf (s : State) (b : Bool) : State := if b then s.skip 1 else s

/-! ## Mode status (R35) -/

/-- The half word with a one in position `p` when `b` (R35). -/
def halfBit (p : Fin 18) (b : Bool) : Addr := if b then (1 : Addr) <<< (17 - p.val) else 0

/-- Position `p` of a half word (R35). -/
def halfPosition (h : Addr) (p : Fin 18) : Bool := h.getLsbD (17 - p.val)

/-- `MS_LAYOUT.pack` of the three mode bits; unassigned positions are zero (R35, log 7). -/
def packModes (compat problem ttrap : Bool) : Addr :=
  halfBit Config.msCompatPosition compat ||| halfBit Config.msProblemPosition problem |||
    halfBit Config.msTransferTrapPosition ttrap

/-- The mode status of a state (R35). -/
def State.modeStatus (s : State) : Addr := packModes s.compat s.problem s.ttrap

/-- `(COMPAT, PROBLEM, TTRAP) <- MS_LAYOUT.unpack(h)` (R35, R290, R291). -/
def State.loadModes (s : State) (h : Addr) : State :=
  { s with
    compat := halfPosition h Config.msCompatPosition
    problem := halfPosition h Config.msProblemPosition
    ttrap := halfPosition h Config.msTransferTrapPosition }

/-- 7095, Monitor and No Transfer Trap Modes (R502, R514). -/
def State.clearModes (s : State) : State := { s with compat := false, problem := false, ttrap := false }

/-! ## Storage protection (R80-R85) -/

/-- A potential storage protect violation (R80). -/
def State.outsideBounds (s : State) (a : Addr) : Bool :=
  decide (s.hpr < blockOf a) || decide (blockOf a < s.lpr)

/-- An actual CPU storage protect violation (R81). -/
def State.violates (s : State) (a : Addr) : Bool := s.problem && s.outsideBounds a

/-! ## Channels -/

/-- The number of a channel: its position among 1-9 of a channel select word, from zero (R441). -/
def channelIndex : ChannelId → Fin 9
  | .special => 0 | .a => 1 | .b => 2 | .c => 3 | .d => 4 | .e => 5 | .f => 6 | .g => 7 | .h => 8

/-- The working state of a channel. -/
def State.channel (s : State) (ch : ChannelId) : Channel := s.channels[(channelIndex ch).val]

/-- Replace the working state of a channel. -/
def State.setChannel (s : State) (ch : ChannelId) (c : Channel) : State :=
  { s with channels := s.channels.set (channelIndex ch).val c }

/-- `busy(ch)`: a channel is busy unless idle (R443, R465). -/
def Channel.busy (c : Channel) : Bool := decide (c.phase ≠ .idle)

/-- The bit of a channel in a nine-position mask, positions 1-9 of a channel select word (R441). -/
def maskBit (m : BitVec 9) (ch : ChannelId) : Bool := m.getLsbD (8 - (channelIndex ch).val)

/-- Positions 1-9 of a channel select word (R441). -/
def selectMask (w : Word) : BitVec 9 := w.extractLsb' 26 9

/-- The nine channels in the order of positions 1-9. -/
def allChannels : List ChannelId := [.special, .a, .b, .c, .d, .e, .f, .g, .h]

/-- The nine-position mask with the bit `f` gives each channel. -/
def maskOf (f : ChannelId → Bool) : BitVec 9 :=
  BitVec.ofNat 9 (allChannels.foldl (fun n ch => 2 * n + (f ch).toNat) 0)

/-- `CAR_LAYOUT.unpack` (R37, R292; log 9). -/
def assignedChannels (w : Word) : BitVec 9 := maskOf fun ch => position w (Config.carPosition ch)

/-- `sel(w)` (R442). -/
def selected (w : Word) : List ChannelId := allChannels.filter (maskBit (selectMask w))

/-- An actual channel violation (R82, R471). -/
def State.channelViolates (s : State) (inhibit : Bool) (a : Addr) : Bool := s.outsideBounds a && !inhibit

/-- `ChannelStore`: a violating word is not stored (R83, R471). -/
def State.channelStore (s : State) (inhibit : Bool) (a : Addr) (w : Word) : State :=
  if s.channelViolates inhibit a then s else s.poke a w

/-- Hand a channel to the environment with its own sequence going on (R83, R442, R471; log 75). -/
def State.handOver (s : State) (ch : ChannelId) : State := s.setChannel ch { s.channel ch with handed := true }

/-- `ChannelStore` on behalf of CHT or SCH: a violating word is not stored, and what the channel does next is the
environment's (R83, R471; log 51). -/
def State.storeFor (s : State) (ch : ChannelId) (inhibit : Bool) (a : Addr) (w : Word) : State :=
  if s.channelViolates inhibit a then s.handOver ch else s.poke a w

/-- `inhibit` as an I/O instruction latches it (R82, R471, D35). -/
def State.inhibitFor (s : State) (csw : Word) : Bool := !s.problem && signOf csw

/-! ## Channel traps (R467, R468, R514-R517) -/

/-- The pending bit of a kind (R468). -/
def Channel.pending (c : Channel) : TrapKind → Bool
  | .ending => c.pendingEnd
  | .unusualEnd => c.pendingUnusual
  | .attention => c.pendingAttention

/-- Set or clear the pending bit of a kind (R468). -/
def Channel.setPending (c : Channel) (k : TrapKind) (b : Bool) : Channel :=
  match k with
  | .ending => { c with pendingEnd := b }
  | .unusualEnd => { c with pendingUnusual := b }
  | .attention => { c with pendingAttention := b }

end Sys2Proof.Machine
end

