-- ==== Sys2Proof/Machine/Channel.lean ====
section
/-! DEFINITION. Channel commands, data control words, the sequencing of a channel, what the environment does to a
channel in its hands, and the turns these agents take (spec/49_io_channel.md, sections 3 to 6; R466, R472). -/

namespace Sys2Proof.Machine

/-! ## Trap conditions (R467, R468) -/

/-- The six enable bits, in the order of positions 30 to 35 (R448). -/
inductive EnableBit where
  | chain | attentionImmediate | attentionNotInUse | ending | unusualEnd | incorrectLength
  deriving DecidableEq, Repr

/-- A condition is enabled (R448, R467). -/
def Channel.enabled (c : Channel) : EnableBit → Bool
  | .chain => c.enb.getLsbD 5
  | .attentionImmediate => c.enb.getLsbD 4
  | .attentionNotInUse => c.enb.getLsbD 3
  | .ending => c.enb.getLsbD 2
  | .unusualEnd => c.enb.getLsbD 1
  | .incorrectLength => c.enb.getLsbD 0

/-- The kind of trap a condition calls for (R467). -/
def EnableBit.kind : EnableBit → TrapKind
  | .chain | .attentionImmediate | .attentionNotInUse => .attention
  | .ending => .ending
  | .unusualEnd | .incorrectLength => .unusualEnd

/-- A condition occurs: an enabled one is held as pending, another is dropped (R468). -/
def Channel.note (c : Channel) (b : EnableBit) : Channel :=
  if c.enabled b then c.setPending b.kind true else c

/-- The conditions a control unit reports, each against its own enable bit (R467). -/
def Channel.noteConditions (c : Channel) (r : Conditions) : Channel :=
  let c1 := if r.dataError || r.exceptional || r.intervention then c.note .unusualEnd else c
  if r.incorrectLength then c1.note .incorrectLength else c1

/-- Some unusual condition is present (R465). -/
def Conditions.any (r : Conditions) : Bool :=
  r.dataError || r.exceptional || r.intervention || r.incorrectLength

/-- Disconnect: the channel is no longer in use, and an attention that has waited for that is noted
(R465, R467 b). -/
def Channel.disconnect (c : Channel) : Channel :=
  let c1 := { c with phase := .idle, attentionWaiting := false }
  if c.attentionWaiting then c1.note .attentionNotInUse else c1

/-- An attention or unit freed signal: bit 31 at once; bit 32 as soon as the channel is not in use
(R467; log 43). -/
def Channel.receiveAttention (c : Channel) : Channel :=
  let c1 := c.note .attentionImmediate
  if c.busy then { c1 with attentionWaiting := true } else c1.note .attentionNotInUse

/-! ## Positions in the command sequence (R466) -/

/-- The channel is in the environment's hands: its sequence has ended there, or an I/O instruction has handed it
over (R472; log 75). -/
def Channel.inEnvironment (c : Channel) : Bool := decide (c.phase = .environment) || c.handed

/-- The environment gives the channel a place in the sequence again, and it is no longer handed over; at no place the
channel is not in use, which is a disconnection (R467 b, R472). -/
def Channel.resumed (c : Channel) (p : Phase) : Channel :=
  match p with
  | .idle => { c.disconnect with handed := false }
  | p => { c with phase := p, handed := false }

/-- The current command when the channel is looking for a data control word. -/
def Phase.current : Phase → Option Command
  | .fetch cur | .decode cur _ => cur
  | _ => none

/-- Change the channel that is acting. -/
def State.acts (s : State) (f : Channel → Channel) : State :=
  s.setChannel s.acting (f (s.channel s.acting))

/-- Put the acting channel in a phase. -/
def State.enter (s : State) (p : Phase) : State := s.acts fun c => { c with phase := p }

/-- The current command of the acting channel. -/
def State.currentCommand (s : State) : Option Command := (s.channel s.acting).phase.current

/-- The address of a command: its field, or one level of indirection through positions 18-35 (R453, D45). -/
def withCommandAddress (flags : CmdFlags) (y : Addr) (s : State) (k : Addr → Result) : Result :=
  if flags.indirect then readWord s y fun w => k (rightHalf w) else k y

/-! ## Commands (R451-R456) -/

/-- A control unit operation. Met as a command, positions 4-11 go to the control unit and the channel looks for
the data control word, or completes at once for Control Immediate; met where a data control word is wanted, the
channel is handed to the environment (R454, R461, R466). DESIGN CHOICE where the spec is silent: a flag on an operation
it is not listed for has no effect (R452; log 76), and Control makes no use of its address and I/A flag (R453;
log 77). -/
def controlUnitOperation (cmd : Command) (s : State) : Result :=
  match s.currentCommand with
  | some _ => .next (s.enter .environment)
  | none =>
    let s1 := { s with outbox := .order s.acting (s.channel s.acting).unit cmd.order :: s.outbox }
    if decide (cmd.operation = .control) && cmd.flags.immediate then .next (s1.enter (.complete cmd))
    else .next (s1.enter (.fetch (some cmd)))

/-- Sense (R451, R454). -/
def execChSense (m : BitVec 4) (flags : CmdFlags) (y : Addr) (s : State) : Result :=
  controlUnitOperation ⟨.sense, (m ++ (0b0100 : BitVec 4)).cast rfl, flags, y⟩ s

/-- Read Backward (R451, R454). -/
def execChReadBackward (m : BitVec 4) (flags : CmdFlags) (y : Addr) (s : State) : Result :=
  controlUnitOperation ⟨.readBackward, (m ++ (0b1100 : BitVec 4)).cast rfl, flags, y⟩ s

/-- Write (R451, R454). -/
def execChWrite (m : BitVec 6) (flags : CmdFlags) (y : Addr) (s : State) : Result :=
  controlUnitOperation ⟨.write, (m ++ (0b01 : BitVec 2)).cast rfl, flags, y⟩ s

/-- Read (R451, R454). -/
def execChRead (m : BitVec 6) (flags : CmdFlags) (y : Addr) (s : State) : Result :=
  controlUnitOperation ⟨.read, (m ++ (0b10 : BitVec 2)).cast rfl, flags, y⟩ s

/-- Control (R451, R454). -/
def execChControl (m : BitVec 6) (flags : CmdFlags) (y : Addr) (s : State) : Result :=
  controlUnitOperation ⟨.control, (m ++ (0b11 : BitVec 2)).cast rfl, flags, y⟩ s

/-- TCH: for a command or a data control word alike (R455, R466). Its A/D flag, whose meaning the spec does not state,
has no effect: DESIGN CHOICE, log 78. -/
def execChTch (flags : CmdFlags) (y : Addr) (s : State) : Result :=
  withCommandAddress flags y s fun a =>
    .next (s.acts fun c => { c with lc := a, phase := .fetch c.phase.current })

/-- Read the object of an XEC: it is decoded as a command, with the Location Counter unchanged (R456, R466). -/
def channelObject (a : Addr) (s : State) : Result := readWord s a fun w => .next (s.enter (.decode none w))

/-- XEC of a channel (R456, R466). With the I/A flag on, the object's address is read in this turn and the object in the
channel's next: a turn makes one access of storage, so that another agent's can fall between any two (R77, D15). -/
def execChXec (flags : CmdFlags) (y : Addr) (s : State) : Result :=
  match s.currentCommand with
  | some _ => .next (s.enter .environment)
  | none =>
    if flags.indirect then readWord s y fun w => .next (s.enter (.object (rightHalf w))) else channelObject y s

/-! ## Data control words (R457-R464) -/

/-- Load the counters from a data control word and begin transmission; met where a command is wanted, it is
ignored (R457, R465, R466). -/
def loadControlWord (chain noTransmission : Bool) (c : BitVec 15) (a : Addr) (s : State) : Result :=
  match s.currentCommand with
  | none => .next (s.enter (.fetch none))
  | some cmd =>
    .next (s.acts fun ch =>
      { ch with wc := c, da := a, phase := .transmit cmd chain noTransmission })

/-- A data control word with its indirect flag on: one level, refused when the indirect word's sign is on
(R460, R463, C26). Met where a command is wanted, it is ignored without reading. -/
def loadIndirectControlWord (chain : Bool) (c : BitVec 15) (y : Addr) (s : State) : Result :=
  match s.currentCommand with
  | none => .next (s.enter (.fetch none))
  | some _ =>
    readWord s y fun w =>
      if signOf w then .refused .wideDataAddress else loadControlWord chain false c (rightHalf w) s

/-- TCW (R459). -/
def execDcwTcw (c : BitVec 15) (y : Addr) (s : State) : Result := loadControlWord false false c y s

/-- TCW* (R460). -/
def execDcwTcwInd (c : BitVec 15) (y : Addr) (s : State) : Result := loadIndirectControlWord false c y s

/-- CCW (R461). -/
def execDcwCcw (c : BitVec 15) (y : Addr) (s : State) : Result := loadControlWord true false c y s

/-- CCWN (R462). -/
def execDcwCcwn (c : BitVec 15) (y : Addr) (s : State) : Result := loadControlWord true true c y s

/-- CCW* (R463). -/
def execDcwCcwInd (c : BitVec 15) (y : Addr) (s : State) : Result := loadIndirectControlWord true c y s

/-! ## Transmission and completion (R464-R466) -/

/-- The Data Address Counter after one word: upward by one, PRESUMED (log 39); for Read Backward what the
environment says (log 40). -/
def nextDataAddress (op : UnitOperation) (da : Addr) (r : DeviceReply) : Addr :=
  match op with
  | .readBackward => r.nextAddress
  | .sense | .read | .write | .control => da + 1

/-- Words move from the device into storage (R454). -/
def UnitOperation.storesData : UnitOperation → Bool
  | .sense | .readBackward | .read => true
  | .write | .control => false

/-- Count one word moved (R466). -/
def countWord (op : UnitOperation) (r : DeviceReply) (s : State) : State :=
  s.acts fun c => { c with wc := c.wc - 1, da := nextDataAddress op c.da r }

/-- Move one word under the current data control word. A violating store is not made and the channel is handed
to the environment (R83, R466; log 50); no transmission counts the word and stores none (R462; log 41). -/
def transmitWord (op : UnitOperation) (noTransmission : Bool) (r : DeviceReply) (s : State) : Result :=
  let c := s.channel s.acting
  if op.storesData then
    if noTransmission then .next (countWord op r s)
    else if s.channelViolates c.inhibit c.da then .next (s.enter .environment)
    else .next (countWord op r (s.poke c.da r.word))
  else
    readWord s c.da fun w =>
      .next (countWord op r { s with outbox := .word s.acting w :: s.outbox })

/-- One step of transmission: an end signal completes the command; a word count of zero chains or completes;
otherwise one word moves (R464, R466). So a data control word whose count is zero from the start moves no word: DESIGN
CHOICE, log 85, which R466 says is not in the source. -/
def transmitStep (cmd : Command) (chain noTransmission : Bool) (r : DeviceReply) (s : State) : Result :=
  if r.endSignal then .next (s.enter (.complete cmd))
  else if (s.channel s.acting).wc = 0 then
    if chain then .next ((s.acts fun c => c.note .chain).enter (.fetch (some cmd)))
    else .next (s.enter (.complete cmd))
  else transmitWord cmd.operation noTransmission r s

/-- Completion of a command (R465, R466): an unusual condition disconnects; then a halt request, then the
Advance flag decide; a disconnection without an unusual condition is an End condition (R446, D45). -/
def Channel.completed (c : Channel) (cmd : Command) (r : DeviceReply) : Channel :=
  let c1 := { c with status := r.status }
  if Conditions.any r.conditions then (c1.noteConditions r.conditions).disconnect
  else if c.haltRequest then (c1.note .ending).disconnect
  else if cmd.flags.advance then { c1 with phase := .fetch none }
  else (c1.note .ending).disconnect

/-! ## A channel's step (R466) -/

/-- The meaning of a word a channel has met: that of its constructor. `decodeChannel` gives none of the processor's
instructions, for which nothing happens here. -/
def performChannel (i : Instr) (s : State) : Result :=
  match i with
  | .chSense m flags y => execChSense m flags y s
  | .chReadBackward m flags y => execChReadBackward m flags y s
  | .chWrite m flags y => execChWrite m flags y s
  | .chRead m flags y => execChRead m flags y s
  | .chControl m flags y => execChControl m flags y s
  | .chTch flags y => execChTch flags y s
  | .chXec flags y => execChXec flags y s
  | .dcwTcw c y => execDcwTcw c y s
  | .dcwTcwInd c y => execDcwTcwInd c y s
  | .dcwCcw c y => execDcwCcw c y s
  | .dcwCcwn c y => execDcwCcwn c y s
  | .dcwCcwInd c y => execDcwCcwInd c y s
  | _ => .next s

/-- The fetch of a command or data control word: the Location Counter moves on (R466). -/
def channelFetch (cur : Option Command) (s : State) : Result :=
  readWord s (s.channel s.acting).lc fun w =>
    .next (s.acts fun c => { c with lc := c.lc + 1, phase := .decode cur w })

/-- A pattern assigned to nothing. Where a command is wanted, a word that is no command is ignored like every data
control word; any other is the environment's (R451, R458, R465, R466; log 74). -/
def unassignedWord (w : Word) (s : State) : State :=
  if !isCommand w && s.currentCommand.isNone then s.enter (.fetch none) else s.enter .environment

/-- Decode and execute the word a channel has fetched (R451, R457, R466). -/
def channelDecode (w : Word) (s : State) : Result :=
  match decodeChannel w with
  | some i => performChannel i s
  | none => .next (unassignedWord w s)

/-- One step of the acting channel, by its phase (R466). A channel that is idle or in the environment's hands
takes no step of its own. -/
def channelStep (r : DeviceReply) (s : State) : Result :=
  match (s.channel s.acting).phase with
  | .idle => .next s
  | .environment => .next s
  | .fetch cur => channelFetch cur s
  | .decode _ w => channelDecode w s
  | .object a => channelObject a s
  | .transmit cmd chain noTransmission => transmitStep cmd chain noTransmission r s
  | .complete cmd => .next (s.acts fun c => c.completed cmd r)

/-! ## The environment (R472) -/

/-- What the environment does to a channel in its hands (R472 a; log 38): any store protection lets a busy channel
make, any condition, any counters and status, resuming a busy channel's sequence, stopping it, or carrying on. -/
def environmentAct (ch : ChannelId) (act : EnvironmentAct) (s : State) : State :=
  let c := s.channel ch
  match act with
  | .store a w => if c.busy then s.channelStore c.inhibit a w else s
  | .endCondition => s.setChannel ch (c.note .ending)
  | .unusualEnd r => s.setChannel ch (c.noteConditions r)
  | .attention => s.setChannel ch (c.note .chain)
  | .counters lc wc da => s.setChannel ch { c with lc := lc, wc := wc, da := da }
  | .status w => s.setChannel ch { c with status := w }
  | .resume p => if c.busy then s.setChannel ch (c.resumed p) else s
  | .stop => s.setChannel ch (c.resumed .idle)
  | .carryOn => s.setChannel ch { c with handed := false }

/-- The environment acts only for a channel handed to it (R472). -/
def environmentCycle (ch : ChannelId) (act : EnvironmentAct) (s : State) : State :=
  if (s.channel ch).inEnvironment then environmentAct ch act s else s

/-! ## Turns (R77, R87, R564) -/

/-- One turn of an agent that shares storage with the processor. -/
def runTurn (t : Turn) (s : State) : Result :=
  match t with
  | .channel ch r => channelStep r { s with acting := ch }
  | .environment ch act => .next (environmentCycle ch act s)
  | .attention ch => .next (s.setChannel ch (s.channel ch).receiveAttention)

/-- Several turns, one after another. -/
def runTurns : List Turn → State → Result
  | [], s => .next s
  | t :: l, s => andThen (runTurn t s) (runTurns l)

end Sys2Proof.Machine
end

