-- ==== Sys2Proof/Machine/Ops.lean ====
section
/-! DEFINITION. The processor's storage accesses, with the turns of other agents that fall before them; checked
stores; taking a trap of either kind and returning from one (spec/20_memory.md, spec/60_exceptions.md). -/

namespace Sys2Proof.Machine

/-! ## Storage accesses (R72-R74, R77, R85) -/

/-- The turns of other agents that fall before the coming storage access, then the access (R77, R87, R564;
log 33). -/
def between (s : State) (k : State → Result) : Result :=
  match s.inside with
  | [] => k s
  | turns :: rest => andThen (runTurns turns { s with inside := rest }) k

/-- Read a word and go on; a word without a value stops the model (R49, R140 e). -/
def withWord (s : State) (a : Addr) (k : Word → State → Result) : Result :=
  between s fun s => readWord s a fun w => k w s

/-- Read the words at `a` and `a + 1`, two accesses (R71 c, R28, R77). -/
def withDouble (s : State) (a : Addr) (k : Word → Word → State → Result) : Result :=
  withWord s a fun w0 s => withWord s (a + 1) fun w1 s => k w0 w1 s

/-- Read `n` words from `a` upward. -/
def withWords (s : State) : Nat → Addr → (List Word → State → Result) → Result
  | 0, _, k => k [] s
  | n + 1, a, k => withWord s a fun w s => withWords s n (a + 1) fun l s => k (w :: l) s

/-- The hardware's own stores of a list of words, each its own access, unchecked (R84, R77). -/
def withPokes : List (Addr × Word) → State → (State → Result) → Result
  | [], s, k => k s
  | (a, w) :: l, s, k => between s fun s => withPokes l (s.poke a w) k

/-- The same stores with no turn between them. -/
def State.pokes (s : State) : List (Addr × Word) → State
  | [] => s
  | (a, w) :: l => (s.poke a w).pokes l

/-! ## Fixed locations (R79) -/

/-- The number of a fixed location, from zero. -/
def locationIndex : FixedLocation → Nat
  | .r1 => 0 | .r2 => 1 | .r3 => 2 | .r4 => 3 | .r5 => 4
  | .r6 => 5 | .r7 => 6 | .r8 => 7 | .r9 => 8 | .r10 => 9

/-- `LOC_R1 .. LOC_R10` (R8, D3). -/
def locationAddress (r : FixedLocation) : Addr :=
  Config.fixedLocations (BitVec.ofNat 18 (locationIndex r))

/-- The number of a trap kind. -/
def trapKindIndex : TrapKind → Nat
  | .ending => 0 | .unusualEnd => 1 | .attention => 2

/-- `LOC_CHTRAP(ch, kind)` (R8, R515). The special channel has none and its traps are never deliverable, so what
this gives for it is never used. -/
def channelTrapAddress (ch : ChannelId) (k : TrapKind) : Addr :=
  Config.channelTrapLocations (BitVec.ofNat 18 (3 * (channelIndex ch).val + trapKindIndex k))

/-! ## CPU traps (R501-R513) -/

/-- The CPU traps, with what each stores (R502). `ioInCompatibleMode` is described by R508 and never taken,
Compatible Mode being out of scope (log 53). -/
inductive CpuTrap where
  | floatingPoint (i : Instr) (sp : Spill)
  | divideCheck
  | protectViolation
  | illegalOperation
  | ioInCompatibleMode (op : BitVec 9) (ea : Addr)
  | transfer
  | monitorCall (ea : Addr)
  deriving DecidableEq, Repr

/-- `SAVE(type)`, the "Modes & Return Addr" column (R502). -/
def CpuTrap.save : CpuTrap → FixedLocation
  | .floatingPoint .. | .divideCheck => .r4
  | .protectViolation | .illegalOperation | .ioInCompatibleMode .. | .transfer | .monitorCall _ => .r5

/-- `XFER(type)`, the "Transfer Address" column (R502). -/
def CpuTrap.target : CpuTrap → FixedLocation
  | .floatingPoint .. | .divideCheck => .r6
  | .protectViolation | .illegalOperation => .r7
  | .ioInCompatibleMode .. => .r8
  | .transfer => .r9
  | .monitorCall _ => .r10

/-- The saved address: IL for the Transfer Trap, IL + 1 for the others (R512, D10). -/
def CpuTrap.returnAddress (t : CpuTrap) (il : Addr) : Addr :=
  match t with
  | .transfer => il
  | .ioInCompatibleMode .. => Config.compatibleReturn il
  | .floatingPoint .. | .divideCheck | .protectViolation | .illegalOperation | .monitorCall _ => il + 1

/-- The "Other Conditions" column: what is stored where (R502, R513). -/
def CpuTrap.information : CpuTrap → List (FixedLocation × Word)
  | .floatingPoint i sp => [(.r1, Config.spill1 (.floatingPoint i sp))]
  | .divideCheck => [(.r1, Config.spill1 .divideCheck)]
  | .protectViolation => [(.r2, Config.spill2 .protectViolation)]
  | .illegalOperation => [(.r2, Config.spill2 .illegalOperation)]
  | .ioInCompatibleMode op ea => [(.r2, Config.compatibleOperationWord op), (.r3, joinHalves 0 ea)]
  | .transfer => []
  | .monitorCall ea => [(.r2, joinHalves 0 ea)]

/-- The stores of a CPU trap, in their order: modes and return address, then the further information (R502). -/
def CpuTrap.stores (t : CpuTrap) (s : State) : List (Addr × Word) :=
  (locationAddress t.save, joinHalves s.modeStatus (t.returnAddress s.il)) ::
    t.information.map fun p => (locationAddress p.1, p.2)

/-- The end of a trap entry: the modes are cleared and the program counter set (R502, R514). -/
def State.enterAt (s : State) (a : Addr) : State := { s.clearModes with pc := a }

/-- `CpuTrap(type, ret, info)`: taking a CPU trap (R502). Modes and return address are saved, the information
stored, the modes cleared, and the program counter set; the stores are the hardware's (D9). -/
def takeTrap (t : CpuTrap) (s : State) : State := (s.pokes (t.stores s)).enterAt (locationAddress t.target)

/-- `raise`: the instruction ends with the trap entry as its next state, `takeTrap` with the turns of other agents
between its stores (R500). -/
def raise (t : CpuTrap) (s : State) : Result :=
  withPokes (t.stores s) s fun s => .next (s.enterAt (locationAddress t.target))

/-- `Transfer(t)` (R252). -/
def transferTo (target : Addr) (s : State) : Result :=
  if s.ttrap then raise .transfer s else .next { s with pc := target }

/-- A conditional transfer: nothing when its condition fails (R252). -/
def transferIf (b : Bool) (target : Addr) (s : State) : Result :=
  if b then transferTo target s else .next s

/-- The check of the always-restricted instructions (R506, R507). -/
def privileged (s : State) (k : Result) : Result := if s.problem then raise .illegalOperation s else k

/-! ## Checked stores (R73, R74, R85, R505) -/

/-- `MemWrite` by the processor, and go on (R73, R505). -/
def withStore (a : Addr) (w : Word) (s : State) (k : State → Result) : Result :=
  between s fun s => if s.violates a then raise .protectViolation s else k (s.poke a w)

/-- `MemWriteField` and the read-modify-write stores: a read and a write, between which a channel's store may fall
(R74, R77). -/
def withUpdate (a : Addr) (f : Word → Word) (s : State) (k : State → Result) : Result :=
  withWord s a fun w s => withStore a (f w) s k

/-- Several words from `a` upward; the first violation stops (R85). -/
def withStores : Addr → List Word → State → (State → Result) → Result
  | _, [], s, k => k s
  | a, w :: l, s, k => withStore a w s fun s' => withStores (a + 1) l s' k

/-! ## Channel traps (R467, R468, R514-R517) -/

/-- `deliverable(ch, K)` (R468, R516). The special channel has no trap location (R515). -/
def State.deliverable (s : State) (ch : ChannelId) (k : TrapKind) : Bool :=
  decide (ch ≠ .special) && (s.channel ch).pending k && !s.cti && !maskBit s.ictMask ch

/-- The channel traps that are deliverable, in the order of channels and kinds. -/
def State.deliverables (s : State) : List (ChannelId × TrapKind) :=
  (allChannels.flatMap fun ch => [(ch, .ending), (ch, .unusualEnd), (ch, .attention)]).filter
    fun p => s.deliverable p.1 p.2

/-- The channel trap the next step takes, if one is deliverable; `pick` stands for the open choice (R517 a). -/
def State.chooseTrap (s : State) (pick : Nat) : Option (ChannelId × TrapKind) :=
  s.deliverables[pick % s.deliverables.length]?

/-- The four stores of a channel trap: the three channel words and the CPU status location (R469, R514). -/
def channelTrapWords (ch : ChannelId) (k : TrapKind) (s : State) : List (Addr × Word) :=
  [(Config.channelWordLocation 0, Config.channelTrapWord s.tick ch k 0),
    (Config.channelWordLocation 1, Config.channelTrapWord s.tick ch k 1),
    (Config.channelWordLocation 2, Config.channelTrapWord s.tick ch k 2),
    (Config.statusLocation, joinHalves s.modeStatus s.pc)]

/-- The end of a channel trap's entry (R514). -/
def State.enterChannelTrap (s : State) (ch : ChannelId) (k : TrapKind) : State :=
  { s.enterAt (channelTrapAddress ch k) with cti := true }

/-- `ChannelTrap(ch, K)`: taking a channel trap (R514). -/
def takeChannelTrap (ch : ChannelId) (k : TrapKind) (s : State) : State :=
  ((s.setChannel ch ((s.channel ch).setPending k false)).pokes (channelTrapWords ch k s)).enterChannelTrap ch k

/-- The step that takes a channel trap: `takeChannelTrap` with the turns of other agents between its stores. -/
def raiseChannelTrap (ch : ChannelId) (k : TrapKind) (s : State) : Result :=
  withPokes (channelTrapWords ch k s) (s.setChannel ch ((s.channel ch).setPending k false)) fun s =>
    .next (s.enterChannelTrap ch k)

/-- Return from a channel trap, given the word at the CPU status location (R290, R520). -/
def returnFromChannelTrap (w : Word) (s : State) : State :=
  let s1 := { s.loadModes (leftHalf w) with pc := rightHalf w, cti := false }
  s1.poke Config.statusLocation 0

/-- Return from a CPU trap, given the status word (R291, R519). -/
def returnFromTrap (w : Word) (s : State) : State :=
  { s.loadModes (leftHalf w) with pc := rightHalf w }

end Sys2Proof.Machine
end

