-- ==== Sys2Proof/Machine/Flags.lean ====
section
/-! DEFINITION. Additions to the accumulator, the overflow trigger, compares and the index compare indicators
(R180, R241-R245, R279, R324, R342). -/

namespace Sys2Proof.Machine

/-- `AddToAC(s, m)`: the accumulator after adding a signed magnitude (R180). -/
def addMagnitude (a : Acc) (s : Bool) (m : BitVec 35) : Acc :=
  let w : Magnitude := m.setWidth 37
  if a.s = s then { a with m := a.m + w }
  else if w ≤ a.m then { a with m := a.m - w }
  else { s := !a.s, m := w - a.m }

/-- `AddToAC(s, m)` sets the overflow trigger: like signs and a change of position P (R180). -/
def addOverflows (a : Acc) (s : Bool) (m : BitVec 35) : Bool :=
  decide (a.s = s) && ((a.m + m.setWidth 37).getLsbD 35 != a.p)

/-- `AddToAC(s, m)` on the state (R180). -/
def State.addToAc (st : State) (s : Bool) (m : BitVec 35) : State :=
  { st with ac := addMagnitude st.ac s m, ov := st.ov || addOverflows st.ac s m }

/-- ACL's sum with end-around carry (R183). -/
def addLogical (a w : Word) : Word :=
  let t := a.toNat + w.toNat
  BitVec.ofNat 36 (if 2 ^ 36 ≤ t then t - 2 ^ 36 + 1 else t)

/-- A one enters or passes position P when the lowest `width` bits of a register, P being the bit above them,
move left `n` places (R241, R243, R245). -/
def shiftOverflows (v width n : Nat) : Bool :=
  decide (1 ≤ n) && decide (v % 2 ^ width / 2 ^ (width - min n width) ≠ 0)

/-- The outcome of a three-way compare of the accumulator with storage. -/
inductive Relation where
  | greater | equal | less
  deriving DecidableEq, Repr

/-- The algebraic compare of CAS, the two zeros being equal (R279). -/
def compareSigned (a : Acc) (w : Word) : Relation :=
  let ma := a.m.toNat
  let mw := (magnitude w).toNat
  if ma = 0 ∧ mw = 0 then .equal
  else if a.s ≠ signOf w then (if a.s then .less else .greater)
  else if ma = mw then .equal
  else if decide (ma < mw) != a.s then .less
  else .greater

/-- An unsigned compare (R280, R407). -/
def compareUnsigned (a b : Nat) : Relation :=
  if a = b then .equal else if a < b then .less else .greater

/-- Equal skips one, less skips two (R279, R280, R407). -/
def State.skipOn (s : State) : Relation → State
  | .greater => s
  | .equal => s.skip 1
  | .less => s.skip 2

/-- C(MQ) is algebraically less than C(AC), minus zero below plus zero (R271). -/
def lowMq (a : Acc) (mq : Word) : Bool :=
  if a.s ≠ signOf mq then signOf mq
  else if a.m.toNat = (magnitude mq).toNat then false
  else if signOf mq then decide (a.m.toNat < (magnitude mq).toNat)
  else decide ((magnitude mq).toNat < a.m.toNat)

/-- Set the index compare indicators High, Low, Equal (R30). -/
def State.setIndicators (s : State) (h l e : Bool) : State := { s with ixh := h, ixl := l, ixe := e }

/-- The Index High indicator alone (R30). -/
def State.indicateHigh (s : State) : State := s.setIndicators true false false

/-- The Index Low indicator alone (R30). -/
def State.indicateLow (s : State) : State := s.setIndicators false true false

/-- The Index Equal indicator alone (R30). -/
def State.indicateEqual (s : State) : State := s.setIndicators false false true

/-- `SetCompare(x, d)` (R342). -/
def State.compareIndex (s : State) (x d : Addr) : State :=
  if d < x then s.indicateHigh else if x = d then s.indicateEqual else s.indicateLow

/-- `SetIdxInd(x, d, add)`, the indicators of an add to index (R324; the last case is DESIGN CHOICE, log 20). -/
def State.indicateAdd (s : State) (x d : Addr) : State :=
  if x + d = 0 then s.indicateEqual
  else if 2 ^ 18 < x.toNat + d.toNat then s.indicateHigh
  else s.indicateLow

/-- `SetIdxInd(x, d, sub)`, the indicators of a subtract from index (R324; the last case is DESIGN CHOICE,
log 20). -/
def State.indicateSubtract (s : State) (x d : Addr) : State :=
  if x - d = 0 then s.indicateEqual
  else if x < d then s.indicateLow
  else s.indicateHigh

/-- Add to the index register named by Tag 1 and set the indicators; the caller handles tag zero, for which no
operation results (R319, R320). -/
def State.addToIndex (s : State) (t : BitVec 4) (d : Addr) : State :=
  (s.indicateAdd (s.x t.toNat) d).setX t.toNat (s.x t.toNat + d)

/-- Subtract from the index register named by Tag 1 and set the indicators (R322, R323). -/
def State.subtractFromIndex (s : State) (t : BitVec 4) (d : Addr) : State :=
  (s.indicateSubtract (s.x t.toNat) d).setX t.toNat (s.x t.toNat - d)

end Sys2Proof.Machine
end

