-- ==== Sys2Proof/Machine/Operands.lean ====
section
/-! DEFINITION. Effective addresses and operand forms (R104-R108). -/

namespace Sys2Proof.Machine

/-- Which tags modify the address at the first level (R104, R105, R110). -/
inductive Indexing where
  | single
  | double
  deriving DecidableEq, Repr

/-- The address before indirection (R104, R105). -/
def directAddress (d : Indexing) (o : Operand) (s : State) : Addr :=
  match d with
  | .single => o.y - s.x o.t2.toNat
  | .double => o.y - s.x o.t1.toNat - s.x o.t2.toNat

/-- The indirect-address chain from `a` on, every level double-indexed (R106). `fuel` bounds the words read. -/
def chase : Nat → State → Addr → Except Fault Addr
  | 0, _, _ => .error .endlessIndirectChain
  | fuel + 1, s, a =>
    match s.load a with
    | none => .error .unwrittenStorage
    | some iw =>
      let next := directAddress .double (operandField iw) s
      if (operandField iw).f then chase fuel s next else .ok next

/-- How many words of an indirect chain or of an XEC chain can differ: after that many a chain has met an
address twice and never ends (R106, R255 d; log 29). -/
def chainFuel : Nat := 262144

/-- `EffectiveAddress` (R106): the address formed while no other agent takes a turn. -/
def effectiveAddress (d : Indexing) (o : Operand) (s : State) : Except Fault Addr :=
  let a := directAddress d o s
  if o.f then chase chainFuel s a else .ok a

/-- The indirect-address chain as the processor reads it, each word its own access (R106, R77). -/
def withChain : Nat → Addr → State → (Addr → State → Result) → Result
  | 0, _, _, _ => .fault .endlessIndirectChain
  | fuel + 1, a, s, k =>
    withWord s a fun iw s =>
      let next := directAddress .double (operandField iw) s
      if (operandField iw).f then withChain fuel next s k else k next s

/-- The most words a chain can read without being endless: one for each list of turns still to come, which may change
the chain, and then `chainFuel` (R106, R255 d; log 29). -/
def State.chainLimit (s : State) : Nat := chainFuel + s.inside.length

/-- Form the effective address and go on (R140 a, R500): `effectiveAddress`, with the turns of other agents between
the words of a chain. -/
def withAddress (d : Indexing) (o : Operand) (s : State) (k : Addr → State → Result) : Result :=
  if o.f then withChain s.chainLimit (directAddress d o s) s k else k (directAddress d o s) s

/-- The operand part of an instruction whose effective address is already formed (R101, R106). -/
def formedOperand (ea : Addr) : Operand := { f := false, t1 := 0, t2 := 0, y := ea }

/-- A storage operand of a double-indexed instruction: `C(Y)` (R107). -/
def withOperand (o : Operand) (s : State) (k : Word → State → Result) : Result :=
  withAddress .double o s fun ea s => withWord s ea k

/-- A double-word operand of a double-indexed instruction: `C(Y)`, `C(Y+1)` (R107, R71 c). -/
def withDoubleOperand (o : Operand) (s : State) (k : Word → Word → State → Result) : Result :=
  withAddress .double o s fun ea s => withDouble s ea k

/-- A storage operand of a single-indexed instruction (R105, R107). -/
def withIndexOperand (o : Operand) (s : State) (k : Word → State → Result) : Result :=
  withAddress .single o s fun ea s => withWord s ea k

/-- Full-word store of a double-indexed instruction (R107). -/
def storeOperand (o : Operand) (w : Word) (s : State) : Result :=
  withAddress .double o s fun ea s => withStore ea w s .next

/-- Field store or read-modify-write of a double-indexed instruction (R74, R107). -/
def updateOperand (o : Operand) (f : Word → Word) (s : State) : Result :=
  withAddress .double o s fun ea s => withUpdate ea f s .next

/-- Field store of a single-indexed instruction (R74, R105). -/
def updateIndexOperand (o : Operand) (f : Word → Word) (s : State) : Result :=
  withAddress .single o s fun ea s => withUpdate ea f s .next

/-- Replace the left half of a word (R71). -/
def withLeft (h : Addr) (w : Word) : Word := joinHalves h (rightHalf w)

/-- Replace the right half of a word (R71). -/
def withRight (h : Addr) (w : Word) : Word := joinHalves (leftHalf w) h

end Sys2Proof.Machine
end

