-- ==== Sys2Proof/Machine/Control.lean ====
section
/-! DEFINITION. Control operations (spec/44_control.md), XEC apart (Perform.lean). -/

namespace Sys2Proof.Machine

/-- NOP (R253). -/
def execNop (o : Operand) (s : State) : Result := withAddress .double o s fun _ s => .next s

/-- HPR (R256). -/
def execHpr (o : Operand) (s : State) : Result :=
  withAddress .double o s fun _ s => .next { s with halted := true }

/-- HTR (R257). -/
def execHtr (o : Operand) (s : State) : Result :=
  withAddress .double o s fun ea s => transferTo ea { s with halted := true }

/-- A double-indexed transfer on a condition (R252). -/
def transferOn (b : Bool) (o : Operand) (s : State) : Result :=
  withAddress .double o s fun ea s => transferIf b ea s

/-- TRA (R258). -/
def execTra (o : Operand) (s : State) : Result := transferOn true o s

/-- TTR (R259). -/
def execTtr (o : Operand) (s : State) : Result :=
  withAddress .double o s fun ea s => .next { s with pc := ea }

/-- `C(AC) is zero`: Q, P and 1-35 all zero (R260, D30). -/
def accIsZero (s : State) : Bool := decide (s.ac.m = 0)

/-- TZE (R260). -/
def execTze (o : Operand) (s : State) : Result := transferOn (accIsZero s) o s

/-- TNZ (R261). -/
def execTnz (o : Operand) (s : State) : Result := transferOn (!accIsZero s) o s

/-- TPL (R262). -/
def execTpl (o : Operand) (s : State) : Result := transferOn (!s.ac.s) o s

/-- TMI (R263). -/
def execTmi (o : Operand) (s : State) : Result := transferOn s.ac.s o s

/-- TZM (R264). -/
def execTzm (o : Operand) (s : State) : Result := transferOn (s.ac.s || accIsZero s) o s

/-- TZP (R265). -/
def execTzp (o : Operand) (s : State) : Result := transferOn (!s.ac.s || accIsZero s) o s

/-- TGZ (R266). -/
def execTgz (o : Operand) (s : State) : Result := transferOn (!s.ac.s && !accIsZero s) o s

/-- TLZ (R267). -/
def execTlz (o : Operand) (s : State) : Result := transferOn (s.ac.s && !accIsZero s) o s

/-- TOV: the trigger is turned off before the transfer (R268). -/
def execTov (o : Operand) (s : State) : Result :=
  withAddress .double o s fun ea s => transferIf s.ov ea { s with ov := false }

/-- TNO (R269). -/
def execTno (o : Operand) (s : State) : Result :=
  withAddress .double o s fun ea s => transferIf (!s.ov) ea { s with ov := false }

/-- TQP (R270). -/
def execTqp (o : Operand) (s : State) : Result := transferOn (!signOf s.mq) o s

/-- TLQ (R271). -/
def execTlq (o : Operand) (s : State) : Result := transferOn (lowMq s.ac s.mq) o s

/-- Sense light `n`, 1 to 4, as bit `n - 1` of the lights (R42). -/
def lightBit (n : Nat) : BitVec 4 := (1 : BitVec 4) <<< (n - 1)

/-- Sense light `n` is on. -/
def lightOn (s : State) (n : Nat) : Bool := s.lights.getLsbD (n - 1)

/-- Sense switch `n`, 1 to 6, is down (R41). -/
def switchDown (s : State) (n : Nat) : Bool := s.switches.getLsbD (n - 1)

/-- The selector effects of Plus Sense (R272, D48; log 71). -/
def plusSense (ea : Addr) (s : State) : Result :=
  let n := ea.toNat
  if n = 0o140 then .next { s with lights := 0 }
  else if 0o141 ≤ n ∧ n ≤ 0o144 then .next { s with lights := s.lights ||| lightBit (n - 0o140) }
  else if 0o161 ≤ n ∧ n ≤ 0o166 then .next (s.skipIf (switchDown s (n - 0o160)))
  else .refused .unassignedSelector

/-- PSE (R272). -/
def execPse (o : Operand) (s : State) : Result := withAddress .double o s fun ea s => plusSense ea s

/-- The selector effects of Minus Sense: test a light and turn it off (R273). -/
def minusSense (ea : Addr) (s : State) : Result :=
  let n := ea.toNat
  if 0o141 ≤ n ∧ n ≤ 0o144 then
    if lightOn s (n - 0o140) then
      .next ({ s with lights := s.lights &&& ~~~ lightBit (n - 0o140) }.skip 1)
    else .next s
  else .refused .unassignedSelector

/-- MSE (R273). -/
def execMse (o : Operand) (s : State) : Result := withAddress .double o s fun ea s => minusSense ea s

/-- PBT (R274). -/
def execPbt (o : Operand) (s : State) : Result :=
  withAddress .double o s fun _ s => .next (s.skipIf s.ac.p)

/-- LBT (R275). -/
def execLbt (o : Operand) (s : State) : Result :=
  withAddress .double o s fun _ s => .next (s.skipIf (position s.ac.logical 35))

/-- ZET (R277). -/
def execZet (o : Operand) (s : State) : Result :=
  withOperand o s fun w s => .next (s.skipIf (decide (magnitude w = 0)))

/-- NZT (R278). -/
def execNzt (o : Operand) (s : State) : Result :=
  withOperand o s fun w s => .next (s.skipIf (decide (magnitude w ≠ 0)))

/-- CAS (R279). -/
def execCas (o : Operand) (s : State) : Result :=
  withOperand o s fun w s => .next (s.skipOn (compareSigned s.ac w))

/-- LAS (R280). -/
def execLas (o : Operand) (s : State) : Result :=
  withOperand o s fun w s => .next (s.skipOn (compareUnsigned s.ac.m.toNat w.toNat))

/-- TSL (R281, C14). -/
def execTsl (o : Operand) (s : State) : Result :=
  withAddress .double o s fun ea s =>
    withUpdate ea (withRight (s.il + 1)) s fun s' => transferTo (ea + 1) s'

/-- SMP (R282). -/
def execSmp (o : Operand) (s : State) : Result :=
  withAddress .double o s fun ea s =>
    privileged s <| withWord s ea fun w s =>
      .next { s with lpr := w.extractLsb' 26 10, hpr := w.extractLsb' 8 10 }

/-- ETM (R283). -/
def execEtm (o : Operand) (s : State) : Result :=
  withAddress .double o s fun _ s => .next { s with ttrap := true }

/-- LTM (R284). -/
def execLtm (o : Operand) (s : State) : Result :=
  withAddress .double o s fun _ s => .next { s with ttrap := false }

/-- An instruction the source leaves to be defined: refused in every mode (R540, D53). -/
def toBeDefined (o : Operand) (s : State) : Result :=
  withAddress .double o s fun _ _ => .refused .toBeDefined

/-- LTMR (R286). -/
def execLtmr (o : Operand) (s : State) : Result := toBeDefined o s

/-- STMR (R287). -/
def execStmr (o : Operand) (s : State) : Result := toBeDefined o s

/-- LRTC (R288). -/
def execLrtc (o : Operand) (s : State) : Result := toBeDefined o s

/-- SRTC (R289). -/
def execSrtc (o : Operand) (s : State) : Result := toBeDefined o s

/-- CTR, also named RCT (R290, R449, R520): the read and the zero store of the status location are two accesses. -/
def execCtr (o : Operand) (s : State) : Result :=
  withAddress .double o s fun _ s =>
    privileged s <| withWord s Config.statusLocation fun w s =>
      between s fun s => .next (returnFromChannelTrap w s)

/-- PTR (R291, R519). -/
def execPtr (o : Operand) (s : State) : Result :=
  withAddress .double o s fun ea s =>
    privileged s <| withWord s ea fun w s => .next (returnFromTrap w s)

/-- SCAR (R292; `CAR_LAYOUT` is log 9). -/
def execScar (o : Operand) (s : State) : Result :=
  withAddress .double o s fun ea s =>
    privileged s <| withWord s ea fun w s => .next { s with car := assignedChannels w }

/-- CMON (R293). -/
def execCmon (o : Operand) (s : State) : Result :=
  withAddress .double o s fun ea s => raise (.monitorCall ea) s

end Sys2Proof.Machine
end

