-- ==== Sys2Proof/Machine/FixedPoint.lean ====
section
/-! DEFINITION. Fixed point operations (spec/41_fixed_point.md). -/

namespace Sys2Proof.Machine

/-- ADD (R181). -/
def execAdd (o : Operand) (s : State) : Result :=
  withOperand o s fun w s => .next (s.addToAc (signOf w) (magnitude w))

/-- ADM (R182). -/
def execAdm (o : Operand) (s : State) : Result :=
  withOperand o s fun w s => .next (s.addToAc false (magnitude w))

/-- ACL (R183). -/
def execAcl (o : Operand) (s : State) : Result :=
  withOperand o s fun w s => .next { s with ac := s.ac.withLogical (addLogical s.ac.logical w) }

/-- SUB (R184). -/
def execSub (o : Operand) (s : State) : Result :=
  withOperand o s fun w s => .next (s.addToAc (!signOf w) (magnitude w))

/-- SBM (R185). -/
def execSbm (o : Operand) (s : State) : Result :=
  withOperand o s fun w s => .next (s.addToAc true (magnitude w))

/-- The sign of a product or quotient (R186, R191). -/
def productSign (a b : Bool) : Bool := a != b

/-- The 70-bit product of two magnitudes (R186). -/
def product (a b : BitVec 35) : Nat := a.toNat * b.toNat

/-- The registers after MPY (R186). -/
def multiply (s : State) (w : Word) : State :=
  let sign := productSign (signOf s.mq) (signOf w)
  let p := product (magnitude s.mq) (magnitude w)
  { s with
    ac := Acc.make sign false false (BitVec.ofNat 35 (p / 2 ^ 35))
    mq := signed sign (BitVec.ofNat 35 p) }

/-- MPY (R186). -/
def execMpy (o : Operand) (s : State) : Result :=
  withOperand o s fun w s => .next (multiply s w)

/-- Increase positions 1-35 of the accumulator by one when position 1 of the MQ is one (R187). -/
def roundProduct (s : State) : State :=
  if position s.mq 1 then { s with ac := Acc.make s.ac.s s.ac.q s.ac.p (s.ac.mag + 1) } else s

/-- MPR (R187). -/
def execMpr (o : Operand) (s : State) : Result :=
  withOperand o s fun w s => .next (roundProduct (multiply s w))

/-- Q and P are zero, as the integer instructions require of the accumulator word (R188, R192, R216). -/
def fitsWord (a : Acc) : Bool := !a.q && !a.p

/-- IMP once its operand is read; MQ is a free value when the product fits (R188, D21; log 15), the signs D21 (log 86). -/
def integerMultiply (s : State) (w : Word) : State :=
  let sign := productSign s.ac.s (signOf w)
  let p := product s.ac.mag (magnitude w)
  let ac := Acc.make sign false false (BitVec.ofNat 35 p)
  if 2 ^ 35 ≤ p then { s with ac := ac, ov := true, mq := signed sign (BitVec.ofNat 35 (p / 2 ^ 35)) }
  else { s with ac := ac, mq := Config.impMq s.tick }

/-- IMP (R188). -/
def execImp (o : Operand) (s : State) : Result :=
  withAddress .double o s fun ea s =>
    if fitsWord s.ac then withWord s ea fun w s => .next (integerMultiply s w)
    else .refused .operandAboveWord

/-- `c` steps of VLM's add and shift right, on `a` and `q` (R189). -/
def multiplySteps (m : Nat) : Nat → Nat × Nat → Nat × Nat
  | 0, aq => aq
  | c + 1, (a, q) =>
    let a' := if q % 2 = 1 then (a + m) % 2 ^ 37 else a
    multiplySteps m c (a' / 2, q / 2 + a' % 2 * 2 ^ 34)

/-- VLM with a count above zero, once its operand is read (R189). -/
def variableMultiply (c : Nat) (s : State) (w : Word) : State :=
  let sign := productSign (signOf s.mq) (signOf w)
  let m := (magnitude w).toNat
  let q := (magnitude s.mq).toNat
  let r := if m ≠ 0 ∧ q ≠ 0 then multiplySteps m c (0, q) else (0, 0)
  { s with ac := { s := sign, m := BitVec.ofNat 37 r.1 }, mq := signed sign (BitVec.ofNat 35 r.2) }

/-- VLM (R189, D39). -/
def execVlm (o : Operand) (s : State) : Result :=
  withAddress .single o s fun ea s =>
    if o.t1 = 0 then .next s else withWord s ea fun w s => .next (variableMultiply o.t1.toNat s w)

/-- RND (R190). -/
def execRnd (o : Operand) (s : State) : Result :=
  withAddress .double o s fun _ s => .next (if position s.mq 1 then s.addToAc s.ac.s 1 else s)

/-- The condition of a divide check of DVT and VDT (R191, R193, R194). -/
def divideChecks (s : State) (w : Word) : Bool := decide ((magnitude w).toNat ≤ s.ac.m.toNat)

/-- DVT without a divide check (R191). -/
def divide (s : State) (w : Word) : State :=
  let n := (s.ac.m ++ magnitude s.mq).toNat
  let d := (magnitude w).toNat
  { s with
    mq := signed (productSign s.ac.s (signOf w)) (BitVec.ofNat 35 (n / d))
    ac := { s.ac with m := BitVec.ofNat 37 (n % d) } }

/-- DVT (R191, R194). -/
def execDvt (o : Operand) (s : State) : Result :=
  withOperand o s fun w s =>
    if divideChecks s w then raise .divideCheck s else .next (divide s w)

/-- IDV with a divisor that is not zero (R192). -/
def integerDivide (s : State) (w : Word) : State :=
  let n := s.ac.mag.toNat
  let d := (magnitude w).toNat
  { s with
    ac := Acc.make (productSign s.ac.s (signOf w)) false false (BitVec.ofNat 35 (n / d))
    mq := signed s.ac.s (BitVec.ofNat 35 (n % d)) }

/-- IDV (R192). -/
def execIdv (o : Operand) (s : State) : Result :=
  withAddress .double o s fun ea s =>
    if fitsWord s.ac then
      withWord s ea fun w s =>
        if magnitude w = 0 then raise .divideCheck s else .next (integerDivide s w)
    else .refused .operandAboveWord

/-- `c` steps of VDT's shift left and subtract, on `a` and `q` (R193). -/
def divideSteps (d : Nat) : Nat → Nat × Nat → Nat × Nat
  | 0, aq => aq
  | c + 1, (a, q) =>
    let a' := a * 2 % 2 ^ 37 + q / 2 ^ 34 % 2
    let q' := q * 2 % 2 ^ 35
    divideSteps d c (if d ≤ a' then (a' - d, q' + 1) else (a', q'))

/-- VDT with a count above zero and no divide check (R193). -/
def variableDivide (c : Nat) (s : State) (w : Word) : State :=
  let r := divideSteps (magnitude w).toNat c (s.ac.m.toNat, (magnitude s.mq).toNat)
  { s with
    ac := { s.ac with m := BitVec.ofNat 37 r.1 }
    mq := signed (productSign s.ac.s (signOf w)) (BitVec.ofNat 35 r.2) }

/-- VDT (R193, D39). -/
def execVdt (o : Operand) (s : State) : Result :=
  withAddress .single o s fun ea s =>
    if o.t1 = 0 then .next s
    else
      withWord s ea fun w s =>
        if divideChecks s w then raise .divideCheck s else .next (variableDivide o.t1.toNat s w)

end Sys2Proof.Machine
end

