-- ==== Sys2Proof/Machine/Numerics.lean ====
section
/-! DEFINITION. `NUMERICS` (R201): the reference functions for single precision, FLT and FIX (R200, R231-R233, R421,
R422; PRESUMED, log 13, 18, 19), and the record `Config.numerics` the meanings take their functions from; its
double-precision functions are opaque (Config). -/

namespace Sys2Proof.Machine

/-- An unpacked floating-point number: sign, characteristic, fraction (R200). -/
structure Unpacked where
  s : Bool
  ch : Int
  fr : Nat
  deriving DecidableEq, Repr

/-- `unpack` of a word: eight-bit characteristic, 27-bit fraction (R200). -/
def unpackWord (w : Word) : Unpacked :=
  { s := signOf w, ch := (w.extractLsb' 27 8).toNat, fr := (w.extractLsb' 0 27).toNat }

/-- `unpack` of the accumulator: ten-bit characteristic Q:P:1-8 (section 6 of 42_floating_point.md). -/
def unpackAcc (a : Acc) : Unpacked :=
  { s := a.s, ch := (a.m.extractLsb' 27 10).toNat, fr := (a.m.extractLsb' 0 27).toNat }

/-- No spill. -/
def noSpill : Spill :=
  { acOverflow := false, acUnderflow := false, mqOverflow := false, mqUnderflow := false }

/-- The spill report is not empty (R202). -/
def spillAny (sp : Spill) : Bool := sp.acOverflow || sp.acUnderflow || sp.mqOverflow || sp.mqUnderflow

/-- AC overflow alone (R217, R422). -/
def acOverSpill : Spill := { noSpill with acOverflow := true }

/-- AC underflow alone (R217). -/
def acUnderSpill : Spill := { noSpill with acUnderflow := true }

/-- An accumulator from sign, characteristic modulo 2^10 and fraction. -/
def accOfParts (s : Bool) (ch : Int) (fr : Nat) : Acc :=
  { s := s, m := BitVec.ofNat 37 ((ch % 1024).toNat * 2 ^ 27 + fr % 2 ^ 27) }

/-- A word from sign, characteristic modulo 2^8 and fraction. -/
def wordOfParts (s : Bool) (ch : Int) (fr : Nat) : Word :=
  signed s (BitVec.ofNat 35 ((ch % 256).toNat * 2 ^ 27 + fr % 2 ^ 27))

/-- The spill report of two result characteristics (section 6 of 42_floating_point.md). -/
def spillOf (acCh mqCh : Int) : Spill :=
  { acOverflow := decide (255 < acCh), acUnderflow := decide (acCh < 0),
    mqOverflow := decide (255 < mqCh), mqUnderflow := decide (mqCh < 0) }

/-- `pack(s, ch, f54, mqch)` (section 6 of 42_floating_point.md). -/
def pack (s : Bool) (ch : Int) (f : Nat) (mqch : Int) : FpResult :=
  { ac := accOfParts s ch (f / 2 ^ 27), mq := wordOfParts s mqch f, sp := spillOf ch mqch, divCheck := false }

/-- The normalising loop of `fadd`: shift left until the top fraction bit is one (R231). -/
def normalise : Nat → Nat → Int → Nat × Int
  | 0, f, c => (f, c)
  | fuel + 1, f, c => if f < 2 ^ 53 then normalise fuel (f * 2) (c - 1) else (f, c)

/-- The sum of two aligned 54-bit fractions, the second with the larger characteristic (R231). -/
def addFractions (s1 : Bool) (f1 : Nat) (s2 : Bool) (f2 : Nat) (c2 : Int) : Bool × Nat × Int :=
  if s1 ≠ s2 then
    if f2 ≤ f1 then (s1, f1 - f2, c2) else (s2, f2 - f1, c2)
  else if 2 ^ 54 ≤ f1 + f2 then (s2, (f1 + f2) / 2, c2 + 1)
  else (s2, f1 + f2, c2)

/-- `fadd` once operand 2 has the larger characteristic: align, add, normalise, pack (R231). -/
def addAligned (u1 u2 : Unpacked) (norm : Bool) : FpResult :=
  let f1 := u1.fr * 2 ^ 27
  let f2 := u2.fr * 2 ^ 27
  let d := u2.ch - u1.ch
  let g1 := if 63 < d ∨ d < 0 then 0 else f1 / 2 ^ d.toNat
  let r := addFractions u1.s g1 u2.s f2 u2.ch
  if norm then
    if r.2.1 = 0 then pack r.1 0 0 0
    else
      let n := normalise 54 r.2.1 r.2.2
      pack r.1 n.2 n.1 (n.2 - 27)
  else pack r.1 r.2.2 r.2.1 (r.2.2 - 27)

/-- Reference `fadd(ac, y, norm)` (R231). -/
def fadd (ac : Acc) (y : Word) (norm : Bool) : FpResult :=
  let a := unpackAcc ac
  let b := unpackWord y
  if b.ch < a.ch then
    addAligned b { a with s := a.s || ac.p, ch := a.ch % 256 } norm
  else addAligned a b norm

/-- Reference `fmul(mq, y, norm)` (R232). -/
def fmul (mq y : Word) (norm : Bool) : FpResult :=
  let u1 := unpackWord mq
  let u2 := unpackWord y
  let s := u1.s != u2.s
  if u2.ch = 0 ∧ u2.fr = 0 then
    { ac := accOfParts s 0 0, mq := wordOfParts s 0 0, sp := noSpill, divCheck := false }
  else
    let f := u1.fr * u2.fr
    let c := u1.ch + u2.ch - 128
    if norm then
      let f' := if f < 2 ^ 53 then f * 2 else f
      let c' := if f < 2 ^ 53 then c - 1 else c
      if f' / 2 ^ 27 ≠ 0 then pack s c' f' (c' - 27) else pack s 0 f' 0
    else pack s c f (c - 27)

/-- Reference `fround(ac, mq)`: the rounded accumulator and the spill report (R232). -/
def fround (ac : Acc) (mq : Word) : Acc × Spill :=
  if position mq 9 then
    let a := unpackAcc ac
    let f := if 2 ^ 27 ≤ a.fr + 1 then 2 ^ 26 else a.fr + 1
    let c := if 2 ^ 27 ≤ a.fr + 1 then a.ch + 1 else a.ch
    (accOfParts ac.s c f, if 255 < c then acOverSpill else noSpill)
  else (ac, noSpill)

/-- Reference `fdiv(n, d)`: remainder in `ac`, quotient in `mq`, as FDT places them (R233). On a divide check
the results are not used (R214, R216). -/
def fdiv (n : Acc) (d : Word) : FpResult :=
  let un := unpackAcc n
  let ud := unpackWord d
  let qs := un.s != ud.s
  if 2 * ud.fr ≤ un.fr then { ac := n, mq := d, sp := noSpill, divCheck := true }
  else if un.fr = 0 then
    { ac := accOfParts false 0 0, mq := wordOfParts qs 0 0, sp := noSpill, divCheck := false }
  else
    let carry := decide (ud.fr ≤ un.fr)
    let f := if carry then un.fr * 2 ^ 27 / 2 else un.fr * 2 ^ 27
    let c := if carry then un.ch % 256 + 1 else un.ch % 256
    let qc := c - ud.ch + 128
    let rc := c - 27
    { ac := accOfParts un.s rc (f % ud.fr)
      mq := wordOfParts qs qc (f / ud.fr)
      sp := { acOverflow := false, acUnderflow := decide (rc < 0),
              mqOverflow := decide (255 < qc), mqUnderflow := decide (qc < 0) }
      divCheck := false }

/-- The number of binary digits of `m < 2^35`. -/
def bitLength (m : Nat) : Nat := if m = 0 then 0 else Nat.log2 m + 1

/-- Reference `flt(y)` (R421). -/
def flt (w : Word) : Acc :=
  let m := (magnitude w).toNat
  let k := bitLength m
  if m = 0 then accOfParts (signOf w) 0 0
  else accOfParts (signOf w) (128 + k) (if k ≤ 27 then m * 2 ^ (27 - k) else m / 2 ^ (k - 27))

/-- The value of a floating-point word times 2^155: an integer, since a characteristic is at least zero and a
fraction has 27 positions (R200, R422). -/
def scaledValue (w : Word) : Nat :=
  (unpackWord w).fr * 2 ^ (unpackWord w).ch.toNat

/-- The magnitude of a floating-point word is 2^35 or more: FIX traps (R422). -/
def fixOverflows (w : Word) : Bool := decide (2 ^ 35 * 2 ^ 155 ≤ scaledValue w)

/-- Reference `fix`: the integer part (R422). -/
def fixInteger (w : Word) : Acc :=
  { s := signOf w, m := BitVec.ofNat 37 (scaledValue w / 2 ^ 155) }

/-- Reference `fix`: the fractional remainder as a 35-bit binary fraction (R422). -/
def fixFraction (w : Word) : Word :=
  signed (signOf w) (BitVec.ofNat 35 (scaledValue w % 2 ^ 155 * 2 ^ 35 / 2 ^ 155))

/-- Reference `fix(y, ac, mq)`: the integer part and the fraction, or an AC overflow with both registers unchanged
(R422). -/
def fix (w : Word) (ac : Acc) (mq : Word) : FpResult :=
  if fixOverflows w then { ac := ac, mq := mq, sp := acOverSpill, divCheck := false }
  else { ac := fixInteger w, mq := fixFraction w, sp := noSpill, divCheck := false }

end Sys2Proof.Machine

/-- The `NUMERICS` of this machine (R8, D38): the reference record, single precision, FLT and FIX PRESUMED (log 13, 18,
19), and the double-precision functions, for which no reference is given, open (log 14). -/
def Sys2Proof.Config.numerics : Sys2Proof.Numerics where
  fadd := Sys2Proof.Machine.fadd
  fmul := Sys2Proof.Machine.fmul
  fdiv := Sys2Proof.Machine.fdiv
  fround := Sys2Proof.Machine.fround
  dfadd := dfadd
  dfmul := dfmul
  dfdiv := dfdiv
  flt := Sys2Proof.Machine.flt
  fix := Sys2Proof.Machine.fix
end

