-- ==== Sys2Proof/Machine/FloatingPoint.lean ====
section
/-! DEFINITION. Floating point operations (spec/42_floating_point.md) over `NUMERICS` (`Config.numerics`). -/

namespace Sys2Proof.Machine

/-- Raise the Floating Point trap when the spill report is not empty; the registers are already written (R202). OV is
not touched. R29 names the floating-point operations "under the 7094 rules" among those that set it, which on a 7094 they
do only while the floating trap is off; here it is always on (R202), and R203 says that OV is not used by them: DESIGN
CHOICE for R203, log 79. -/
def afterFloating (i : Instr) (sp : Spill) (s : State) : Result :=
  if spillAny sp then raise (.floatingPoint i sp) s else .next s

/-- Write the result registers, then trap on a spill; OV is not touched (R202, R203; log 79). -/
def finishFloating (i : Instr) (r : FpResult) (s : State) : Result :=
  afterFloating i r.sp { s with ac := r.ac, mq := r.mq }

/-- Which sign an add or subtract gives its operand: kept, inverted, or forced (R203-R210). -/
inductive OperandSign where
  | kept | inverted | plus | minus
  deriving DecidableEq, Repr

/-- The operand word with its sign adjusted (R204, R207, R208). -/
def adjustSign (g : OperandSign) (w : Word) : Word :=
  match g with
  | .kept => w
  | .inverted => signed (!signOf w) (magnitude w)
  | .plus => signed false (magnitude w)
  | .minus => signed true (magnitude w)

/-- The eight single-precision adds and subtracts (R203-R210). -/
def floatingAdd (i : Instr) (g : OperandSign) (norm : Bool) (o : Operand) (s : State) : Result :=
  withOperand o s fun w s => finishFloating i (Config.numerics.fadd s.ac (adjustSign g w) norm) s

/-- FAD (R203). -/
def execFad (o : Operand) (s : State) : Result := floatingAdd (.fad o) .kept true o s

/-- FAM (R204). -/
def execFam (o : Operand) (s : State) : Result := floatingAdd (.fam o) .plus true o s

/-- UFA (R205). -/
def execUfa (o : Operand) (s : State) : Result := floatingAdd (.ufa o) .kept false o s

/-- UAM (R206). -/
def execUam (o : Operand) (s : State) : Result := floatingAdd (.uam o) .plus false o s

/-- FSB (R207). -/
def execFsb (o : Operand) (s : State) : Result := floatingAdd (.fsb o) .inverted true o s

/-- FSM (R208). -/
def execFsm (o : Operand) (s : State) : Result := floatingAdd (.fsm o) .minus true o s

/-- UFS (R209). -/
def execUfs (o : Operand) (s : State) : Result := floatingAdd (.ufs o) .inverted false o s

/-- USM (R210). -/
def execUsm (o : Operand) (s : State) : Result := floatingAdd (.usm o) .minus false o s

/-- The two single-precision multiplies (R211, R212). -/
def floatingMultiply (i : Instr) (norm : Bool) (o : Operand) (s : State) : Result :=
  withOperand o s fun w s => finishFloating i (Config.numerics.fmul s.mq w norm) s

/-- FMP (R211). -/
def execFmp (o : Operand) (s : State) : Result := floatingMultiply (.fmp o) true o s

/-- UFM (R212). -/
def execUfm (o : Operand) (s : State) : Result := floatingMultiply (.ufm o) false o s

/-- FRN (R213). Its spill report names it with its address formed, as its decoding forms it (R121; log 12). -/
def execFrn (o : Operand) (s : State) : Result :=
  withAddress .double o s fun ea s =>
    let r := Config.numerics.fround s.ac s.mq
    afterFloating (.frn (formedOperand ea)) r.2 { s with ac := r.1 }

/-- FDT, and FDH which is a second encoding of it (R214, R215, D40). -/
def floatingDivide (i : Instr) (o : Operand) (s : State) : Result :=
  withOperand o s fun w s =>
    let r := Config.numerics.fdiv s.ac w
    if r.divCheck then raise .divideCheck s else finishFloating i r s

/-- FDT (R214). -/
def execFdt (o : Operand) (s : State) : Result := floatingDivide (.fdt o) o s

/-- FDH (R215). -/
def execFdh (o : Operand) (s : State) : Result := floatingDivide (.fdh o) o s

/-- The spill report with the two registers exchanged (R216, R233; log 59). -/
def exchangeSpill (sp : Spill) : Spill :=
  { acOverflow := sp.mqOverflow, acUnderflow := sp.mqUnderflow,
    mqOverflow := sp.acOverflow, mqUnderflow := sp.acUnderflow }

/-- FRD (R216, D57). The MQ takes the sign of C(Y) whatever the remainder; a dividend fraction of zero, for which the
reference record leaves plus zero, is no exception (R216; log 59). -/
def execFrd (o : Operand) (s : State) : Result :=
  withAddress .double o s fun ea s =>
    if fitsWord s.ac then
      withWord s ea fun w s =>
        let r := Config.numerics.fdiv (Acc.ofSigned w) s.ac.signedWord
        if r.divCheck then raise .divideCheck s
        else
          afterFloating (.frd o) (exchangeSpill r.sp)
            { s with ac := Acc.ofSigned r.mq, mq := signed (signOf w) r.ac.mag }
    else .refused .operandAboveWord

/-- The sum ADXP forms: P,1-8 plus the nine low-order address bits as a two's complement number (R217, D24;
log 23). -/
def exponentSum (a : Acc) (ea : Addr) : Int :=
  ((a.m.extractLsb' 27 9).toNat : Int) + (ea.extractLsb' 0 9).toInt

/-- The accumulator with P,1-8 replaced modulo 2^9 (R217). -/
def withExponent (a : Acc) (r : Int) : Acc :=
  { a with m := (BitVec.ofBool a.q ++ BitVec.ofInt 9 r ++ a.m.extractLsb' 0 27).cast rfl }

/-- The spill of ADXP: overflow above 255, underflow below zero (R217). -/
def exponentSpill (r : Int) : Spill :=
  if 255 < r then acOverSpill else if r < 0 then acUnderSpill else noSpill

/-- ADXP (R217). -/
def execAdxp (o : Operand) (s : State) : Result :=
  withAddress .double o s fun ea s =>
    let r := exponentSum s.ac ea
    afterFloating (.adxp o) (exponentSpill r) { s with ac := withExponent s.ac r }

/-- The eight double-precision adds and subtracts; the sign is adjusted on both words (R218-R225, log 58). -/
def doubleAdd (i : Instr) (g : OperandSign) (norm : Bool) (o : Operand) (s : State) : Result :=
  withDoubleOperand o s fun y0 y1 s =>
    finishFloating i (Config.numerics.dfadd s.ac s.mq (adjustSign g y0) (adjustSign g y1) norm) s

/-- DFAD (R218). -/
def execDfad (o : Operand) (s : State) : Result := doubleAdd (.dfad o) .kept true o s

/-- DFAM (R219). -/
def execDfam (o : Operand) (s : State) : Result := doubleAdd (.dfam o) .plus true o s

/-- DUFA (R220). -/
def execDufa (o : Operand) (s : State) : Result := doubleAdd (.dufa o) .kept false o s

/-- DUAM (R221). -/
def execDuam (o : Operand) (s : State) : Result := doubleAdd (.duam o) .plus false o s

/-- DFSB (R222). -/
def execDfsb (o : Operand) (s : State) : Result := doubleAdd (.dfsb o) .inverted true o s

/-- DFSM (R223). -/
def execDfsm (o : Operand) (s : State) : Result := doubleAdd (.dfsm o) .minus true o s

/-- DUFS (R224). -/
def execDufs (o : Operand) (s : State) : Result := doubleAdd (.dufs o) .inverted false o s

/-- DUSM (R225). -/
def execDusm (o : Operand) (s : State) : Result := doubleAdd (.dusm o) .minus false o s

/-- SI after a double-precision multiply or divide: a free value (R226, D38; log 16). -/
def scratchIndicators (s : State) : State := { s with si := Config.doubleSi s.tick }

/-- The two double-precision multiplies (R226, R227). -/
def doubleMultiply (i : Instr) (norm : Bool) (o : Operand) (s : State) : Result :=
  withDoubleOperand o s fun y0 y1 s =>
    finishFloating i (Config.numerics.dfmul s.ac s.mq y0 y1 norm) (scratchIndicators s)

/-- DFMP (R226). -/
def execDfmp (o : Operand) (s : State) : Result := doubleMultiply (.dfmp o) true o s

/-- DUFM (R227). -/
def execDufm (o : Operand) (s : State) : Result := doubleMultiply (.dufm o) false o s

/-- The end of a double-precision divide: a divide check leaves AC and MQ, SI is free in every case (R194, R226,
R228, R229). -/
def finishDoubleDivide (i : Instr) (r : FpResult) (s : State) : Result :=
  if r.divCheck then raise .divideCheck (scratchIndicators s)
  else finishFloating i r (scratchIndicators s)

/-- DFDT (R228). -/
def execDfdt (o : Operand) (s : State) : Result :=
  withDoubleOperand o s fun y0 y1 s =>
    finishDoubleDivide (.dfdt o) (Config.numerics.dfdiv s.ac s.mq (Acc.ofSigned y0) y1) s

/-- DFRD (R229, D57). -/
def execDfrd (o : Operand) (s : State) : Result :=
  withDoubleOperand o s fun y0 y1 s =>
    finishDoubleDivide (.dfrd o) (Config.numerics.dfdiv (Acc.ofSigned y0) y1 s.ac s.mq) s

end Sys2Proof.Machine
end

