-- ==== Sys2Proof/Machine/WordTransmission.lean ====
section
/-! DEFINITION. Word transmission operations (spec/40_word_transmission.md). -/

namespace Sys2Proof.Machine

/-- CLA (R141). -/
def execCla (o : Operand) (s : State) : Result :=
  withOperand o s fun w s => .next { s with ac := Acc.ofSigned w }

/-- CAL (R142). -/
def execCal (o : Operand) (s : State) : Result :=
  withOperand o s fun w s => .next { s with ac := Acc.ofLogical w }

/-- CLS (R143). -/
def execCls (o : Operand) (s : State) : Result :=
  withOperand o s fun w s => .next { s with ac := Acc.make (!signOf w) false false (magnitude w) }

/-- LLA (R144). -/
def execLla (o : Operand) (s : State) : Result :=
  withOperand o s fun w s => .next { s with ac := Acc.ofLogical (joinHalves 0 (leftHalf w)) }

/-- LRA (R145). -/
def execLra (o : Operand) (s : State) : Result :=
  withOperand o s fun w s => .next { s with ac := Acc.ofLogical (joinHalves 0 (rightHalf w)) }

/-- LDQ (R146). -/
def execLdq (o : Operand) (s : State) : Result :=
  withOperand o s fun w s => .next { s with mq := w }

/-- DLA (R147). -/
def execDla (o : Operand) (s : State) : Result :=
  withDoubleOperand o s fun w0 w1 s => .next { s with ac := Acc.ofSigned w0, mq := w1 }

/-- DLLD (R148). -/
def execDlld (o : Operand) (s : State) : Result :=
  withDoubleOperand o s fun w0 w1 s => .next { s with ac := Acc.ofLogical w0, mq := w1 }

/-- DLDN (R149; Q and P cleared by D20, log 65). -/
def execDldn (o : Operand) (s : State) : Result :=
  withDoubleOperand o s fun w0 w1 s =>
    .next { s with
      ac := Acc.make (!signOf w0) false false (magnitude w0)
      mq := signed (!signOf w0) (magnitude w1) }

/-- STO (R150). -/
def execSto (o : Operand) (s : State) : Result := storeOperand o s.ac.signedWord s

/-- SLW (R151). -/
def execSlw (o : Operand) (s : State) : Result := storeOperand o s.ac.logical s

/-- STAL (R152). -/
def execStal (o : Operand) (s : State) : Result := updateOperand o (withLeft (rightHalf s.ac.logical)) s

/-- STAR (R153). -/
def execStar (o : Operand) (s : State) : Result := updateOperand o (withRight (rightHalf s.ac.logical)) s

/-- STAN (R154). -/
def execStan (o : Operand) (s : State) : Result := storeOperand o (signed (!s.ac.s) s.ac.mag) s

/-- STQ (R155). -/
def execStq (o : Operand) (s : State) : Result := storeOperand o s.mq s

/-- SLQ (R156). -/
def execSlq (o : Operand) (s : State) : Result := updateOperand o (withLeft (leftHalf s.mq)) s

/-- Store two words at Y and Y + 1 (R157, R85). -/
def storeDouble (o : Operand) (w0 w1 : Word) (s : State) : Result :=
  withAddress .double o s fun ea s => withStores ea [w0, w1] s .next

/-- DST (R157). -/
def execDst (o : Operand) (s : State) : Result := storeDouble o s.ac.signedWord s.mq s

/-- DLSF (R158). -/
def execDlsf (o : Operand) (s : State) : Result := storeDouble o s.ac.logical s.mq s

/-- DSTN (R159). -/
def execDstn (o : Operand) (s : State) : Result :=
  storeDouble o (signed (!s.ac.s) s.ac.mag) (signed (!s.ac.s) (magnitude s.mq)) s

/-- STZ (R160). -/
def execStz (o : Operand) (s : State) : Result := storeOperand o 0 s

/-- STL (R161; the field by D56, log 66). -/
def execStl (o : Operand) (s : State) : Result := updateOperand o (withRight (s.il + 1)) s

/-- XCA (R162). -/
def execXca (o : Operand) (s : State) : Result :=
  withAddress .double o s fun _ s => .next { s with ac := Acc.ofSigned s.mq, mq := s.ac.signedWord }

/-- XCL (R163). -/
def execXcl (o : Operand) (s : State) : Result :=
  withAddress .double o s fun _ s => .next { s with ac := Acc.ofLogical s.mq, mq := s.ac.logical }

/-- ENK (R164). -/
def execEnk (o : Operand) (s : State) : Result :=
  withAddress .double o s fun _ s => .next { s with mq := s.keys }

/-- `SCPU_LAYOUT.pack` of the six indicators (R165, log 8). -/
def packIndicators (s : State) : Addr :=
  halfBit Config.scpuOverflowPosition s.ov ||| halfBit Config.scpuPPosition s.ac.p |||
    halfBit Config.scpuQPosition s.ac.q ||| halfBit Config.scpuHighPosition s.ixh |||
    halfBit Config.scpuLowPosition s.ixl ||| halfBit Config.scpuEqualPosition s.ixe

/-- Pair `k` of a block of `n` index registers: XR[2k] left, XR[2k+1] right, zero beyond the count (R165, R340). -/
def indexPair (s : State) (n k : Nat) : Word :=
  joinHalves (s.x (2 * k)) (if 2 * k + 1 ≤ n then s.x (2 * k + 1) else 0)

/-- The pairs of a block of `n` index registers (R165, R340). -/
def indexPairs (s : State) (n : Nat) : List Word :=
  (List.range (n / 2)).map fun k => indexPair s n (k + 1)

/-- Load pair `k` of a block of `n` index registers (R166, R341). -/
def loadPair (n k : Nat) (w : Word) (s : State) : State :=
  let s1 := s.setX (2 * k) (leftHalf w)
  if 2 * k + 1 ≤ n then s1.setX (2 * k + 1) (rightHalf w) else s1

/-- Load the pairs of a block, the first of the list being pair `k` (R166, R341). -/
def loadPairs (n : Nat) : Nat → List Word → State → State
  | _, [], s => s
  | k, w :: l, s => loadPairs n (k + 1) l (loadPair n k w s)

/-- The words SCPU stores from Y on: the accumulator, the indicators with XR1, the pairs (R165). -/
def savedProcessor (s : State) (n : Nat) : List Word :=
  s.ac.signedWord :: joinHalves (packIndicators s) (if 1 ≤ n then s.x 1 else 0) :: indexPairs s n

/-- SCPU (R165, D28). -/
def execScpu (o : Operand) (s : State) : Result :=
  withAddress .single o s fun ea s => withStores ea (savedProcessor s o.t1.toNat) s .next

/-- `SCPU_LAYOUT.unpack` into OV, P, Q and the three indicators, with S and 1-35 of the accumulator from its own
word (R166). -/
def loadIndicators (w0 : Word) (h : Addr) (s : State) : State :=
  { s with
    ac := Acc.make (signOf w0) (halfPosition h Config.scpuQPosition) (halfPosition h Config.scpuPPosition)
      (magnitude w0)
    ov := halfPosition h Config.scpuOverflowPosition
    ixh := halfPosition h Config.scpuHighPosition
    ixl := halfPosition h Config.scpuLowPosition
    ixe := halfPosition h Config.scpuEqualPosition }

/-- RCPU once its words are read (R166, C8). -/
def restoreProcessor (n : Nat) (w0 w1 : Word) (pairs : List Word) (s : State) : State :=
  let s1 := loadIndicators w0 (leftHalf w1) s
  let s2 := if 1 ≤ n then s1.setX 1 (rightHalf w1) else s1
  loadPairs n 1 pairs s2

/-- RCPU (R166). -/
def execRcpu (o : Operand) (s : State) : Result :=
  withAddress .single o s fun ea s =>
    withDouble s ea fun w0 w1 s =>
      withWords s (o.t1.toNat / 2) (ea + 2) fun pairs s => .next (restoreProcessor o.t1.toNat w0 w1 pairs s)

end Sys2Proof.Machine
end

