-- ==== Sys2Proof/Machine/Index.lean ====
section
/-! DEFINITION. Index register operations (spec/45_index.md). -/

namespace Sys2Proof.Machine

/-- The contents of the index register named by Tag 1 (R300 c). -/
def tagged (o : Operand) (s : State) : Addr := s.x o.t1.toNat

/-- Load the index register named by Tag 1 with a function of the effective address (R301, R302). -/
def indexFromAddress (f : Addr → Addr) (o : Operand) (s : State) : Result :=
  withAddress .single o s fun ea s => .next (s.setX o.t1.toNat (f ea))

/-- AXI (R301). -/
def execAxi (o : Operand) (s : State) : Result := indexFromAddress id o s

/-- AXC (R302). -/
def execAxc (o : Operand) (s : State) : Result := indexFromAddress neg18 o s

/-- Load the index register named by Tag 1 with a value of the accumulator (R303, R304, R307, R334). -/
def indexFromAcc (v : Addr) (o : Operand) (s : State) : Result :=
  withAddress .single o s fun _ s => .next (s.setX o.t1.toNat v)

/-- PAX (R303). -/
def execPax (o : Operand) (s : State) : Result := indexFromAcc (rightHalf s.ac.logical) o s

/-- PAC (R304). -/
def execPac (o : Operand) (s : State) : Result := indexFromAcc (neg18 (rightHalf s.ac.logical)) o s

/-- Replace the accumulator by one built from the index register named by Tag 1 (R305, R306). -/
def accFromIndex (a : Acc) (o : Operand) (s : State) : Result :=
  withAddress .single o s fun _ s => .next { s with ac := a }

/-- PXA (R305). -/
def execPxa (o : Operand) (s : State) : Result :=
  accFromIndex (Acc.ofSigned (joinHalves 0 (tagged o s))) o s

/-- PXD (R306). -/
def execPxd (o : Operand) (s : State) : Result :=
  accFromIndex (Acc.ofSigned (joinHalves (tagged o s) 0)) o s

/-- PDC (R307). -/
def execPdc (o : Operand) (s : State) : Result := indexFromAcc (neg18 (leftHalf s.ac.signedWord)) o s

/-- PCD (R308). -/
def execPcd (o : Operand) (s : State) : Result :=
  accFromIndex (Acc.ofSigned (joinHalves (neg18 (tagged o s)) 0)) o s

/-- PCA (R309). -/
def execPca (o : Operand) (s : State) : Result :=
  accFromIndex (Acc.ofSigned (joinHalves 0 (neg18 (tagged o s)))) o s

/-- SXA (R310). -/
def execSxa (o : Operand) (s : State) : Result := updateIndexOperand o (withRight (tagged o s)) s

/-- SXD (R311). -/
def execSxd (o : Operand) (s : State) : Result := updateIndexOperand o (withLeft (tagged o s)) s

/-- SCA (R312). -/
def execSca (o : Operand) (s : State) : Result := updateIndexOperand o (withRight (neg18 (tagged o s))) s

/-- SCD (R313). -/
def execScd (o : Operand) (s : State) : Result := updateIndexOperand o (withLeft (neg18 (tagged o s))) s

/-- Load the index register named by Tag 1 with a function of C(Y) (R314-R317, R333). -/
def indexFromWord (f : Word → Addr) (o : Operand) (s : State) : Result :=
  withIndexOperand o s fun w s => .next (s.setX o.t1.toNat (f w))

/-- LXA (R314). -/
def execLxa (o : Operand) (s : State) : Result := indexFromWord rightHalf o s

/-- LXD (R315). -/
def execLxd (o : Operand) (s : State) : Result := indexFromWord leftHalf o s

/-- LAC (R316). -/
def execLac (o : Operand) (s : State) : Result := indexFromWord (fun w => neg18 (rightHalf w)) o s

/-- LDC (R317). -/
def execLdc (o : Operand) (s : State) : Result := indexFromWord (fun w => neg18 (leftHalf w)) o s

/-- LXS (R333). -/
def execLxs (o : Operand) (s : State) : Result := indexFromWord signedHalf o s

/-- ADXS: the indicators are unchanged (R318, D8). -/
def execAdxs (o : Operand) (s : State) : Result :=
  indexFromWord (fun w => tagged o s + signedHalf w) o s

/-- SBXS (R321). -/
def execSbxs (o : Operand) (s : State) : Result :=
  indexFromWord (fun w => tagged o s - signedHalf w) o s

/-- ADXD: with Tag 1 zero no operation results and nothing is read (R319). -/
def execAdxd (o : Operand) (s : State) : Result :=
  withAddress .single o s fun ea s =>
    if o.t1 = 0 then .next s else withWord s ea fun w s => .next (s.addToIndex o.t1 (rightHalf w))

/-- ADXI (R320). -/
def execAdxi (o : Operand) (s : State) : Result :=
  withAddress .single o s fun ea s => .next (if o.t1 = 0 then s else s.addToIndex o.t1 ea)

/-- SBXD (R322). -/
def execSbxd (o : Operand) (s : State) : Result :=
  withAddress .single o s fun ea s =>
    if o.t1 = 0 then .next s else withWord s ea fun w s => .next (s.subtractFromIndex o.t1 (rightHalf w))

/-- SBXI (R323). -/
def execSbxi (o : Operand) (s : State) : Result :=
  withAddress .single o s fun ea s => .next (if o.t1 = 0 then s else s.subtractFromIndex o.t1 ea)

/-- The characteristic, positions 1-8 of the accumulator (R334). -/
def characteristic (a : Acc) : Addr := (a.m.extractLsb' 27 8).setWidth 18

/-- PCHX (R334, D26). -/
def execPchx (o : Operand) (s : State) : Result := indexFromAcc (characteristic s.ac) o s

/-- TSX (R325). -/
def execTsx (o : Operand) (s : State) : Result :=
  withAddress .single o s fun ea s => transferTo ea (s.setX o.t1.toNat (neg18 s.il))

/-- TXF (R326). -/
def execTxf (o : Operand) (s : State) : Result :=
  withAddress .single o s fun ea s =>
    let r := tagged o s - 1
    transferIf (decide (r ≠ 0)) ea (s.setX o.t1.toNat r)

/-- TXRH (R327). -/
def execTxrh (o : Operand) (s : State) : Result := transferOn s.ixh o s

/-- TXNH (R328). -/
def execTxnh (o : Operand) (s : State) : Result := transferOn (!s.ixh) o s

/-- TXRL (R329). -/
def execTxrl (o : Operand) (s : State) : Result := transferOn s.ixl o s

/-- TXNL (R330). -/
def execTxnl (o : Operand) (s : State) : Result := transferOn (!s.ixl) o s

/-- TXRE (R331). -/
def execTxre (o : Operand) (s : State) : Result := transferOn s.ixe o s

/-- TXNE (R332). -/
def execTxne (o : Operand) (s : State) : Result := transferOn (!s.ixe) o s

/-- CXS (R335). -/
def execCxs (o : Operand) (s : State) : Result :=
  withIndexOperand o s fun w s => .next (s.compareIndex (tagged o s) (signedHalf w))

/-- CXD (R336). -/
def execCxd (o : Operand) (s : State) : Result :=
  withIndexOperand o s fun w s => .next (s.compareIndex (tagged o s) (rightHalf w))

/-- CXI (R337). -/
def execCxi (o : Operand) (s : State) : Result :=
  withAddress .single o s fun ea s => .next (s.compareIndex (tagged o s) ea)

/-- Add XR2 to the register named by Tag 1 and transfer when the sum stands in a relation to XR1, read after the
write (R338, R339, D29). -/
def closeLoop (rel : Addr → Addr → Bool) (o : Operand) (s : State) : Result :=
  withAddress .single o s fun ea s =>
    let sum := tagged o s + s.x 2
    let s' := s.setX o.t1.toNat sum
    transferIf (rel sum (s'.x 1)) ea s'

/-- XLF (R338). -/
def execXlf (o : Operand) (s : State) : Result := closeLoop (fun a b => decide (a ≤ b)) o s

/-- XLB (R339). -/
def execXlb (o : Operand) (s : State) : Result := closeLoop (fun a b => decide (b ≤ a)) o s

/-- SMX (R340, D28). -/
def execSmx (o : Operand) (s : State) : Result :=
  withAddress .single o s fun ea s =>
    if o.t1 = 0 then .next s
    else
      withUpdate ea (withRight (s.x 1)) s fun s' =>
        withStores (ea + 1) (indexPairs s o.t1.toNat) s' .next

/-- LMX (R341, D28). -/
def execLmx (o : Operand) (s : State) : Result :=
  withAddress .single o s fun ea s =>
    if o.t1 = 0 then .next s
    else
      withWord s ea fun w s =>
        withWords s (o.t1.toNat / 2) (ea + 1) fun pairs s =>
          .next (loadPairs o.t1.toNat 1 pairs (s.setX 1 (rightHalf w)))

end Sys2Proof.Machine
end

