-- ==== Sys2Proof/Machine/Indicators.lean ====
section
/-! DEFINITION. Sense indicator operations (spec/47_sense_indicator.md). -/

namespace Sys2Proof.Machine

/-- LDI (R381). -/
def execLdi (o : Operand) (s : State) : Result := withOperand o s fun w s => .next { s with si := w }

/-- STI (R382). -/
def execSti (o : Operand) (s : State) : Result := storeOperand o s.si s

/-- Change SI without a storage operand (R383, R385, R392, R394). -/
def changeIndicators (w : Word) (o : Operand) (s : State) : Result :=
  withAddress .double o s fun _ s => .next { s with si := w }

/-- PAI (R383). -/
def execPai (o : Operand) (s : State) : Result := changeIndicators s.ac.logical o s

/-- PIA (R384). -/
def execPia (o : Operand) (s : State) : Result :=
  withAddress .double o s fun _ s => .next { s with ac := Acc.ofLogical s.si }

/-- OAI (R385). -/
def execOai (o : Operand) (s : State) : Result := changeIndicators (s.si ||| s.ac.logical) o s

/-- OSI (R386). -/
def execOsi (o : Operand) (s : State) : Result := withOperand o s fun w s => .next { s with si := s.si ||| w }

/-- OIS (R387). -/
def execOis (o : Operand) (s : State) : Result := updateOperand o (fun w => w ||| s.si) s

/-- The mask of a Left instruction: the effective address over positions 0-17 (R380). -/
def leftMask (ea : Addr) : Word := joinHalves ea 0

/-- The mask of a Right instruction: the effective address over positions 18-35 (R380). -/
def rightMask (ea : Addr) : Word := joinHalves 0 ea

/-- Change SI by an immediate mask (R388-R391, R396, R397). -/
def maskIndicators (f : Word → Addr → Word) (o : Operand) (s : State) : Result :=
  withAddress .double o s fun ea s => .next { s with si := f s.si ea }

/-- RIL (R388). -/
def execRil (o : Operand) (s : State) : Result := maskIndicators (fun si ea => si &&& ~~~ leftMask ea) o s

/-- RIR (R389). -/
def execRir (o : Operand) (s : State) : Result := maskIndicators (fun si ea => si &&& ~~~ rightMask ea) o s

/-- SIL (R390). -/
def execSil (o : Operand) (s : State) : Result := maskIndicators (fun si ea => si ||| leftMask ea) o s

/-- SIR (R391). -/
def execSir (o : Operand) (s : State) : Result := maskIndicators (fun si ea => si ||| rightMask ea) o s

/-- RIA (R392). -/
def execRia (o : Operand) (s : State) : Result := changeIndicators (s.si &&& ~~~ s.ac.logical) o s

/-- RIS (R393). -/
def execRis (o : Operand) (s : State) : Result :=
  withOperand o s fun w s => .next { s with si := s.si &&& ~~~ w }

/-- IIA (R394). -/
def execIia (o : Operand) (s : State) : Result := changeIndicators (s.si ^^^ s.ac.logical) o s

/-- IIS (R395). -/
def execIis (o : Operand) (s : State) : Result := withOperand o s fun w s => .next { s with si := s.si ^^^ w }

/-- IIL (R396). -/
def execIil (o : Operand) (s : State) : Result := maskIndicators (fun si ea => si ^^^ leftMask ea) o s

/-- IIR (R397). -/
def execIir (o : Operand) (s : State) : Result := maskIndicators (fun si ea => si ^^^ rightMask ea) o s

/-- Every indicator the mask selects is off (R398). -/
def allOff (si mask : Word) : Bool := decide (si &&& mask = 0)

/-- Every indicator the mask selects is on (R399). -/
def allOn (si mask : Word) : Bool := decide (si &&& mask = mask)

/-- OFT (R398). -/
def execOft (o : Operand) (s : State) : Result := withOperand o s fun w s => .next (s.skipIf (allOff s.si w))

/-- ONT (R399). -/
def execOnt (o : Operand) (s : State) : Result := withOperand o s fun w s => .next (s.skipIf (allOn s.si w))

/-- Skip on a test of SI under an immediate mask (R400-R403). -/
def testIndicators (f : Word → Addr → Bool) (o : Operand) (s : State) : Result :=
  withAddress .double o s fun ea s => .next (s.skipIf (f s.si ea))

/-- RFT (R400). -/
def execRft (o : Operand) (s : State) : Result := testIndicators (fun si ea => allOff si (rightMask ea)) o s

/-- RNT (R401). -/
def execRnt (o : Operand) (s : State) : Result := testIndicators (fun si ea => allOn si (rightMask ea)) o s

/-- LFT (R402). -/
def execLft (o : Operand) (s : State) : Result := testIndicators (fun si ea => allOff si (leftMask ea)) o s

/-- LNT (R403). -/
def execLnt (o : Operand) (s : State) : Result := testIndicators (fun si ea => allOn si (leftMask ea)) o s

/-- LACI (R404, D20). -/
def execLaci (o : Operand) (s : State) : Result :=
  withOperand o s fun w s => .next { s with ac := Acc.ofLogical (w &&& s.si) }

/-- SACI (R405). -/
def execSaci (o : Operand) (s : State) : Result := storeOperand o (s.ac.logical &&& s.si) s

/-- LASI (R406). -/
def execLasi (o : Operand) (s : State) : Result :=
  updateOperand o (fun w => (w &&& ~~~ s.si) ||| (s.ac.logical &&& s.si)) s

/-- CASI (R407). -/
def execCasi (o : Operand) (s : State) : Result :=
  withOperand o s fun w s =>
    .next (s.skipOn (compareUnsigned (s.ac.logical &&& s.si).toNat (w &&& s.si).toNat))

end Sys2Proof.Machine
end

