-- ==== Sys2Proof/Machine/InputOutput.lean ====
section
/-! DEFINITION. The processor's input-output instructions (spec/49_io_channel.md, section 2); RCT is CTR, in
Control.lean. -/

namespace Sys2Proof.Machine

/-- Read the channel select word (R440). -/
def withSelectWord (o : Operand) (s : State) (k : Word → State → Result) : Result := withOperand o s k

/-- STC, CHT and SCH: exactly one channel, which must be assigned in Problem Program Mode (R442, R443, R507). -/
def withOneChannel (w : Word) (s : State) (k : ChannelId → Result) : Result :=
  match selected w with
  | [ch] => if s.problem && !maskBit s.car ch then raise .illegalOperation s else k ch
  | _ => .refused .notOneChannel

/-- Positions 10-17 of a channel select word: the unit address (R441, C25). -/
def unitAddress (w : Word) : BitVec 8 := w.extractLsb' 18 8

/-- A channel as STC leaves it, before its first command (R443): previous status cleared, unit accepted,
inhibit latched, location counter set, no halt requested, and the given phase. -/
def Channel.started (c : Channel) (w : Word) (inhibit : Bool) (lc : Addr) (p : Phase) : Channel :=
  { c with
    status := none, unit := unitAddress w, inhibit := inhibit, lc := lc, haltRequest := false, phase := p }

/-- STC on an idle channel. A channel A to H has read its first command word before the skip; the special
channel is handed to the environment (R442, R443; log 42). -/
def startChannel (ch : ChannelId) (w : Word) (s : State) : Result :=
  let x := rightHalf w
  if ch = .special then
    .next ((s.setChannel ch ((s.channel ch).started w (s.inhibitFor w) x .environment)).skip 1)
  else
    withWord s x fun first s =>
      .next ((s.setChannel ch ((s.channel ch).started w (s.inhibitFor w) (x + 1) (.decode none first))).skip 1)

/-- An I/O instruction that selects the special channel hands it to the environment (R442; log 42). STC on an idle one
does so by the phase it leaves the channel in. -/
def handSpecial (w : Word) (s : State) : State :=
  if ChannelId.special ∈ selected w then s.handOver .special else s

/-- STC (R443): no action on a busy channel, but the special channel is handed to the environment (R442). -/
def execStc (o : Operand) (s : State) : Result :=
  withSelectWord o s fun w s => withOneChannel w s fun ch =>
    if (s.channel ch).busy then .next (handSpecial w s) else startChannel ch w s

/-- `AVAILABLE`: an oracle, false while the channel is busy (R444, D45; log 44). -/
def channelAvailable (ch : ChannelId) (unit : BitVec 8) (s : State) : Bool :=
  !(s.channel ch).busy && Config.available s.tick ch unit

/-- `STATUS`: an oracle (R444; log 44). -/
def channelStatusWord (ch : ChannelId) (unit : BitVec 8) (s : State) : Word :=
  Config.channelStatus s.tick ch unit (s.channel ch).status

/-- CHT (R444): the channel's store is an access of its own. -/
def execCht (o : Operand) (s : State) : Result :=
  withSelectWord o s fun w s => withOneChannel w s fun ch =>
    between s fun s =>
      let v := channelStatusWord ch (unitAddress w) s
      let stored := s.storeFor ch (s.inhibitFor w) (rightHalf w) v
      .next (handSpecial w (stored.skipIf (channelAvailable ch (unitAddress w) s)))

/-- `SCH_LAYOUT`, first word: the Location Counter in 18-35 (R445, log 10). -/
def counterWord0 (c : Channel) : Word := joinHalves 0 c.lc

/-- `SCH_LAYOUT`, second word: the Word Counter in 3-17, the Data Address Counter in 18-35 (R445, log 10). -/
def counterWord1 (c : Channel) : Word := joinHalves (c.wc.setWidth 18) c.da

/-- The two words SCH stores: a channel's counters; of the special channel, which the model gives no behaviour, two
free words (R442, R445; log 42). -/
def storedCounters (ch : ChannelId) (s : State) : Word × Word :=
  if ch = .special then (Config.specialCounters s.tick 0, Config.specialCounters s.tick 1)
  else (counterWord0 (s.channel ch), counterWord1 (s.channel ch))

/-- SCH (R445): the counters are sampled at one instant, before the first store; each store is an access of its own
(R77). -/
def execSch (o : Operand) (s : State) : Result :=
  withSelectWord o s fun w s => withOneChannel w s fun ch =>
    between s fun s =>
      let x := rightHalf w
      let v := storedCounters ch s
      let inhibit := s.inhibitFor w
      between (s.storeFor ch inhibit x v.1) fun s => .next (handSpecial w (s.storeFor ch inhibit (x + 1) v.2))

/-- Ask a busy channel to halt at the end of its command; an idle one ignores it (R446). -/
def requestHalt (ch : ChannelId) (s : State) : State :=
  if (s.channel ch).busy then s.setChannel ch { s.channel ch with haltRequest := true } else s

/-- Apply an operation to every channel of a list. -/
def forChannels (f : ChannelId → State → State) : List ChannelId → State → State
  | [], s => s
  | ch :: l, s => forChannels f l (f ch s)

/-- HCH (R446). -/
def execHch (o : Operand) (s : State) : Result :=
  withSelectWord o s fun w s =>
    if s.problem && (selected w).any (fun ch => !maskBit s.car ch) then raise .illegalOperation s
    else .next (handSpecial w (forChannels requestHalt (selected w) s))

/-- ICT (R447, D32; log 48). -/
def execIct (o : Operand) (s : State) : Result :=
  withAddress .double o s fun ea s =>
    privileged s <| withWord s ea fun w s => .next (handSpecial w { s with ictMask := selectMask w })

/-- Positions 30-35 of an ENB word (R448). -/
def enableMask (w : Word) : BitVec 6 := w.extractLsb' 0 6

/-- Set the enable mask of a channel (R448). -/
def enableChannel (m : BitVec 6) (ch : ChannelId) (s : State) : State :=
  s.setChannel ch { s.channel ch with enb := m }

/-- ENB (R448, D33). -/
def execEnb (o : Operand) (s : State) : Result :=
  withAddress .double o s fun ea s =>
    privileged s <| withWord s ea fun w s =>
      .next (handSpecial w (forChannels (enableChannel (enableMask w)) (selected w) s))

end Sys2Proof.Machine
end

