-- ==== Sys2Proof/Machine/Logical.lean ====
section
/-! DEFINITION. Logical operations (spec/46_logical.md). -/

namespace Sys2Proof.Machine

/-- ORA (R361). -/
def execOra (o : Operand) (s : State) : Result :=
  withOperand o s fun w s => .next { s with ac := s.ac.withLogical (s.ac.logical ||| w) }

/-- ORS (R362). -/
def execOrs (o : Operand) (s : State) : Result := updateOperand o (fun w => w ||| s.ac.logical) s

/-- ANA (R363). -/
def execAna (o : Operand) (s : State) : Result :=
  withOperand o s fun w s => .next { s with ac := Acc.ofLogical (s.ac.logical &&& w) }

/-- ANS (R364). -/
def execAns (o : Operand) (s : State) : Result := updateOperand o (fun w => w &&& s.ac.logical) s

/-- ERA (R365). -/
def execEra (o : Operand) (s : State) : Result :=
  withOperand o s fun w s => .next { s with ac := Acc.ofLogical (s.ac.logical ^^^ w) }

/-- ERS (R366). -/
def execErs (o : Operand) (s : State) : Result := updateOperand o (fun w => w ^^^ s.ac.logical) s

/-- Change the accumulator without an operand (R367-R371). -/
def changeAcc (f : Acc → Acc) (o : Operand) (s : State) : Result :=
  withAddress .double o s fun _ s => .next { s with ac := f s.ac }

/-- COM (R367). -/
def execCom (o : Operand) (s : State) : Result := changeAcc (fun a => { a with m := ~~~ a.m }) o s

/-- CLM (R368). -/
def execClm (o : Operand) (s : State) : Result := changeAcc (fun a => { a with m := 0 }) o s

/-- CHS (R369). -/
def execChs (o : Operand) (s : State) : Result := changeAcc (fun a => { a with s := !a.s }) o s

/-- SSP (R370). -/
def execSsp (o : Operand) (s : State) : Result := changeAcc (fun a => { a with s := false }) o s

/-- SSM (R371). -/
def execSsm (o : Operand) (s : State) : Result := changeAcc (fun a => { a with s := true }) o s

/-- Algebraic plus one on a sign-magnitude word (R372, D23; log 24). -/
def incrementWord (w : Word) : Word :=
  if signOf w then
    if magnitude w = 0 then signed false 1 else signed true (magnitude w - 1)
  else signed false (magnitude w + 1)

/-- ADOS (R372). -/
def execAdos (o : Operand) (s : State) : Result := updateOperand o incrementWord s

end Sys2Proof.Machine
end

