-- ==== Sys2Proof/Machine/Shifting.lean ====
section
/-! DEFINITION. Shifting operations (spec/43_shifting.md), as exact arithmetic on the joined registers. -/

namespace Sys2Proof.Machine

/-- The shift count: the effective address modulo 256 (R240, D19; log 22). -/
def shiftCount (ea : Addr) : Nat := ea.toNat % 256

/-- Form the address of a shift and go on with its count (R240). -/
def withCount (o : Operand) (s : State) (k : Nat → State → Result) : Result :=
  withAddress .double o s fun ea s => k (shiftCount ea) s

/-- ALS (R241). -/
def execAls (o : Operand) (s : State) : Result :=
  withCount o s fun n s =>
    .next { s with
      ac := { s.ac with m := BitVec.ofNat 37 (s.ac.m.toNat * 2 ^ n) }
      ov := s.ov || shiftOverflows s.ac.m.toNat 35 n }

/-- ARS (R242). -/
def execArs (o : Operand) (s : State) : Result :=
  withCount o s fun n s => .next { s with ac := { s.ac with m := BitVec.ofNat 37 (s.ac.m.toNat / 2 ^ n) } }

/-- Q, P, AC 1-35, MQ 1-35 as one number of 72 bits (R243). -/
def longRegister (s : State) : Nat := (s.ac.m ++ magnitude s.mq).toNat

/-- Q, P, AC 1-35, MQ S,1-35 as one number of 73 bits (R245). -/
def logicalRegister (s : State) : Nat := (s.ac.m ++ s.mq).toNat

/-- LLS (R243). -/
def execLls (o : Operand) (s : State) : Result :=
  withCount o s fun n s =>
    let v := longRegister s * 2 ^ n % 2 ^ 72
    .next { s with
      ac := { s := signOf s.mq, m := BitVec.ofNat 37 (v / 2 ^ 35) }
      mq := signed (signOf s.mq) (BitVec.ofNat 35 v)
      ov := s.ov || shiftOverflows (longRegister s) 70 n }

/-- LRS (R244). -/
def execLrs (o : Operand) (s : State) : Result :=
  withCount o s fun n s =>
    let v := longRegister s / 2 ^ n
    .next { s with
      ac := { s.ac with m := BitVec.ofNat 37 (v / 2 ^ 35) }
      mq := signed s.ac.s (BitVec.ofNat 35 v) }

/-- LGL (R245). -/
def execLgl (o : Operand) (s : State) : Result :=
  withCount o s fun n s =>
    let v := logicalRegister s * 2 ^ n % 2 ^ 73
    .next { s with
      ac := { s.ac with m := BitVec.ofNat 37 (v / 2 ^ 36) }
      mq := BitVec.ofNat 36 v
      ov := s.ov || shiftOverflows (logicalRegister s) 71 n }

/-- LGR (R246). -/
def execLgr (o : Operand) (s : State) : Result :=
  withCount o s fun n s =>
    let v := logicalRegister s / 2 ^ n
    .next { s with
      ac := { s.ac with m := BitVec.ofNat 37 (v / 2 ^ 36) }
      mq := BitVec.ofNat 36 v }

/-- RQL (R247). -/
def execRql (o : Operand) (s : State) : Result :=
  withCount o s fun n s => .next { s with mq := s.mq.rotateLeft (n % 36) }

end Sys2Proof.Machine
end

