-- ==== Sys2Proof/Machine/Special.lean ====
section
/-! DEFINITION. Special purpose operations (spec/48_special_purpose.md). -/

namespace Sys2Proof.Machine

/-- FLT (R421, D25; log 18). -/
def execFlt (o : Operand) (s : State) : Result := withOperand o s fun w s => .next { s with ac := Config.numerics.flt w }

/-- FIX: when it traps, AC and MQ are free values, whatever `NUMERICS` returns (R422, D25; log 17, 19). -/
def execFix (o : Operand) (s : State) : Result :=
  withOperand o s fun w s =>
    let r := Config.numerics.fix w s.ac s.mq
    if spillAny r.sp then
      raise (.floatingPoint (.fix o) r.sp) { s with ac := Config.fixAc s.tick, mq := Config.fixMq s.tick }
    else .next { s with ac := r.ac, mq := r.mq }

/-- The index register and the MQ as one number shifted left `n` places, kept within `54` positions (R423, R425);
past 54 places nothing is left. -/
def shiftIntoIndex (x : Addr) (mq : Word) (n : Nat) : Addr × Word :=
  if 54 ≤ n then (0, 0)
  else
    let v := (x ++ mq).toNat * 2 ^ n
    (BitVec.ofNat 18 (v / 2 ^ 36), BitVec.ofNat 36 v)

/-- SQXL (R423, D27; log 26). -/
def execSqxl (o : Operand) (s : State) : Result :=
  withAddress .single o s fun ea s =>
    let r := shiftIntoIndex (tagged o s) s.mq ea.toNat
    .next ({ s with mq := r.2 }.setX o.t1.toNat r.1)

/-- SXAR (R424, D26; log 25). -/
def execSxar (o : Operand) (s : State) : Result :=
  withAddress .single o s fun ea s =>
    .next { s with
      ac := Acc.make false false false (BitVec.ofNat 35 ((tagged o s).toNat % 2 ^ min ea.toNat 18)) }

/-- SQXT with Tag 1 other than one (R425). -/
def shiftMqAndTest (o : Operand) (c : Addr) (s : State) : State :=
  let r := tagged o s
  let v := shiftIntoIndex 0 s.mq (min c.toNat r.toNat)
  let s1 := { s with mq := v.2 }.setX 1 v.1
  (s1.setX o.t1.toNat (r - c)).skipIf (decide (c < r))

/-- SQXT (R425, D27; log 26). -/
def execSqxt (o : Operand) (s : State) : Result :=
  withAddress .single o s fun ea s =>
    if o.t1 = 1 then .refused .indexOneAsCount else .next (shiftMqAndTest o ea s)

/-- The logical word of the accumulator shifted left, bits leaving P lost (R426). -/
def shiftLogical (w : Word) (n : Nat) : Word := if 36 ≤ n then 0 else w <<< n

/-- SXAT with Tag 1 other than one (R426). -/
def shiftIndexAndTest (o : Operand) (c : Addr) (s : State) : State :=
  let r := tagged o s
  let l := shiftLogical s.ac.logical (min c.toNat r.toNat)
  let x1 := if c < r then s.x 1 else if 18 ≤ c.toNat - r.toNat then 0 else s.x 1 >>> (c.toNat - r.toNat)
  let s1 := { s with ac := s.ac.withLogical (l ||| joinHalves 0 x1) }
  (s1.setX o.t1.toNat (r - c)).skipIf (decide (c < r))

/-- SXAT (R426, D27; log 26). -/
def execSxat (o : Operand) (s : State) : Result :=
  withAddress .single o s fun ea s =>
    if o.t1 = 1 then .refused .indexOneAsCount else .next (shiftIndexAndTest o ea s)

/-- CDEC (R427). -/
def execCdec (o : Operand) (s : State) : Result := toBeDefined o s

/-- CBIN (R428). -/
def execCbin (o : Operand) (s : State) : Result := toBeDefined o s

/-- SBP (R430). -/
def execSbp (o : Operand) (s : State) : Result :=
  withAddress .double o s fun _ _ => .refused .notDescribed

end Sys2Proof.Machine
end

