-- ==== Sys2Proof/Machine/Perform.lean ====
section
/-! DEFINITION. Executing an instruction given a meaning for XEC, and the meaning of XEC (R254, R255). -/

namespace Sys2Proof.Machine

/-- Every instruction's meaning, that of XEC being given: XEC runs other instructions, so its meaning is built
over this table and `exec` (Dispatch.lean) is the same table with XEC's meaning in it. -/
def performWith (xec : Operand → State → Result) (i : Instr) (s : State) : Result :=
  match i with
  | .cla o => execCla o s
  | .cal o => execCal o s
  | .cls o => execCls o s
  | .lla o => execLla o s
  | .lra o => execLra o s
  | .ldq o => execLdq o s
  | .dla o => execDla o s
  | .dlld o => execDlld o s
  | .dldn o => execDldn o s
  | .sto o => execSto o s
  | .slw o => execSlw o s
  | .stal o => execStal o s
  | .star o => execStar o s
  | .stan o => execStan o s
  | .stq o => execStq o s
  | .slq o => execSlq o s
  | .dst o => execDst o s
  | .dlsf o => execDlsf o s
  | .dstn o => execDstn o s
  | .stz o => execStz o s
  | .stl o => execStl o s
  | .xca o => execXca o s
  | .xcl o => execXcl o s
  | .enk o => execEnk o s
  | .scpu o => execScpu o s
  | .rcpu o => execRcpu o s
  | .add o => execAdd o s
  | .adm o => execAdm o s
  | .acl o => execAcl o s
  | .sub o => execSub o s
  | .sbm o => execSbm o s
  | .mpy o => execMpy o s
  | .mpr o => execMpr o s
  | .imp o => execImp o s
  | .vlm o => execVlm o s
  | .rnd o => execRnd o s
  | .dvt o => execDvt o s
  | .idv o => execIdv o s
  | .vdt o => execVdt o s
  | .fad o => execFad o s
  | .fam o => execFam o s
  | .ufa o => execUfa o s
  | .uam o => execUam o s
  | .fsb o => execFsb o s
  | .fsm o => execFsm o s
  | .ufs o => execUfs o s
  | .usm o => execUsm o s
  | .fmp o => execFmp o s
  | .ufm o => execUfm o s
  | .frn o => execFrn o s
  | .fdt o => execFdt o s
  | .fdh o => execFdh o s
  | .frd o => execFrd o s
  | .adxp o => execAdxp o s
  | .dfad o => execDfad o s
  | .dfam o => execDfam o s
  | .dufa o => execDufa o s
  | .duam o => execDuam o s
  | .dfsb o => execDfsb o s
  | .dfsm o => execDfsm o s
  | .dufs o => execDufs o s
  | .dusm o => execDusm o s
  | .dfmp o => execDfmp o s
  | .dufm o => execDufm o s
  | .dfdt o => execDfdt o s
  | .dfrd o => execDfrd o s
  | .als o => execAls o s
  | .ars o => execArs o s
  | .lls o => execLls o s
  | .lrs o => execLrs o s
  | .lgl o => execLgl o s
  | .lgr o => execLgr o s
  | .rql o => execRql o s
  | .nop o => execNop o s
  | .hpr o => execHpr o s
  | .htr o => execHtr o s
  | .xec o => xec o s
  | .tra o => execTra o s
  | .ttr o => execTtr o s
  | .tze o => execTze o s
  | .tnz o => execTnz o s
  | .tpl o => execTpl o s
  | .tmi o => execTmi o s
  | .tzm o => execTzm o s
  | .tzp o => execTzp o s
  | .tgz o => execTgz o s
  | .tlz o => execTlz o s
  | .tov o => execTov o s
  | .tno o => execTno o s
  | .tqp o => execTqp o s
  | .tlq o => execTlq o s
  | .pse o => execPse o s
  | .mse o => execMse o s
  | .pbt o => execPbt o s
  | .lbt o => execLbt o s
  | .zet o => execZet o s
  | .nzt o => execNzt o s
  | .cas o => execCas o s
  | .las o => execLas o s
  | .tsl o => execTsl o s
  | .smp o => execSmp o s
  | .etm o => execEtm o s
  | .ltm o => execLtm o s
  | .ltmr o => execLtmr o s
  | .stmr o => execStmr o s
  | .lrtc o => execLrtc o s
  | .srtc o => execSrtc o s
  | .ctr o => execCtr o s
  | .ptr o => execPtr o s
  | .scar o => execScar o s
  | .cmon o => execCmon o s
  | .axi o => execAxi o s
  | .axc o => execAxc o s
  | .pax o => execPax o s
  | .pac o => execPac o s
  | .pxa o => execPxa o s
  | .pxd o => execPxd o s
  | .pdc o => execPdc o s
  | .pcd o => execPcd o s
  | .pca o => execPca o s
  | .sxa o => execSxa o s
  | .sxd o => execSxd o s
  | .sca o => execSca o s
  | .scd o => execScd o s
  | .lxa o => execLxa o s
  | .lxd o => execLxd o s
  | .lac o => execLac o s
  | .ldc o => execLdc o s
  | .adxs o => execAdxs o s
  | .adxd o => execAdxd o s
  | .adxi o => execAdxi o s
  | .sbxs o => execSbxs o s
  | .sbxd o => execSbxd o s
  | .sbxi o => execSbxi o s
  | .pchx o => execPchx o s
  | .tsx o => execTsx o s
  | .txf o => execTxf o s
  | .txrh o => execTxrh o s
  | .txnh o => execTxnh o s
  | .txrl o => execTxrl o s
  | .txnl o => execTxnl o s
  | .txre o => execTxre o s
  | .txne o => execTxne o s
  | .lxs o => execLxs o s
  | .cxs o => execCxs o s
  | .cxd o => execCxd o s
  | .cxi o => execCxi o s
  | .xlf o => execXlf o s
  | .xlb o => execXlb o s
  | .smx o => execSmx o s
  | .lmx o => execLmx o s
  | .ora o => execOra o s
  | .ors o => execOrs o s
  | .ana o => execAna o s
  | .ans o => execAns o s
  | .era o => execEra o s
  | .ers o => execErs o s
  | .com o => execCom o s
  | .clm o => execClm o s
  | .chs o => execChs o s
  | .ssp o => execSsp o s
  | .ssm o => execSsm o s
  | .ados o => execAdos o s
  | .ldi o => execLdi o s
  | .sti o => execSti o s
  | .pai o => execPai o s
  | .pia o => execPia o s
  | .oai o => execOai o s
  | .osi o => execOsi o s
  | .ois o => execOis o s
  | .ril o => execRil o s
  | .rir o => execRir o s
  | .sil o => execSil o s
  | .sir o => execSir o s
  | .ria o => execRia o s
  | .ris o => execRis o s
  | .iia o => execIia o s
  | .iis o => execIis o s
  | .iil o => execIil o s
  | .iir o => execIir o s
  | .oft o => execOft o s
  | .ont o => execOnt o s
  | .rft o => execRft o s
  | .rnt o => execRnt o s
  | .lft o => execLft o s
  | .lnt o => execLnt o s
  | .laci o => execLaci o s
  | .saci o => execSaci o s
  | .lasi o => execLasi o s
  | .casi o => execCasi o s
  | .flt o => execFlt o s
  | .fix o => execFix o s
  | .cdec o => execCdec o s
  | .cbin o => execCbin o s
  | .sqxl o => execSqxl o s
  | .sxar o => execSxar o s
  | .sqxt o => execSqxt o s
  | .sxat o => execSxat o s
  | .stc o => execStc o s
  | .cht o => execCht o s
  | .sch o => execSch o s
  | .hch o => execHch o s
  | .ict o => execIct o s
  | .sbp o => execSbp o s
  | .enb o => execEnb o s
  | .chSense m flags y => execChSense m flags y s
  | .chReadBackward m flags y => execChReadBackward m flags y s
  | .chWrite m flags y => execChWrite m flags y s
  | .chRead m flags y => execChRead m flags y s
  | .chControl m flags y => execChControl m flags y s
  | .chTch flags y => execChTch flags y s
  | .chXec flags y => execChXec flags y s
  | .dcwTcw c y => execDcwTcw c y s
  | .dcwTcwInd c y => execDcwTcwInd c y s
  | .dcwCcw c y => execDcwCcw c y s
  | .dcwCcwn c y => execDcwCcwn c y s
  | .dcwCcwInd c y => execDcwCcwInd c y s

/-- Go on with a decoded instruction, or refuse (R116). -/
def onDecoded (d : Except DecodeError Instr) (k : Instr → Result) : Result :=
  match d with
  | .ok i => k i
  | .error .unassignedOperation => .refused .unassignedOperation
  | .error .unassignedSelector => .refused .unassignedSelector

/-- A word with its flag and tags cleared and its address field replaced: the same operation with its effective
address already formed (R101, R106). -/
def formedWord (w : Word) (ea : Addr) : Word :=
  assemble (operationField w) (formedOperand ea)

/-- Decode an instruction word in the state it runs in. A 370 group needs its effective address, which is formed once
and is then the instruction's own (R121, R500). -/
def withDecoded (w : Word) (s : State) (k : Instr → State → Result) : Result :=
  if needsSelector w then
    withAddress .double (operandField w) s fun ea s => onDecoded (decodeCpu (formedWord w ea) ea) fun i => k i s
  else onDecoded (decodeCpu w 0) fun i => k i s

/-- XEC with at most `fuel` object words read: the object is decoded and executed with IL and PC unchanged; an
object that is XEC goes on (R254, R255). -/
def runXec : Nat → Operand → State → Result
  | 0, _, _ => .fault .endlessExecuteChain
  | fuel + 1, o, s => withOperand o s fun w s => withDecoded w s (performWith (runXec fuel))

/-- XEC (R254): a chain that has read as many object words as `chainLimit` allows never ends (R255 d; log 29). -/
def execXec (o : Operand) (s : State) : Result := runXec s.chainLimit o s

end Sys2Proof.Machine
end

