-- ==== Sys2Proof/Machine/Dispatch.lean ====
section
/-! DEFINITION. The dispatch: one arm per constructor of Instr, each one direct call of its meaning. -/

namespace Sys2Proof.Machine

def exec (i : Instr) (s : State) : Host.Outcome State Fault Refusal :=
  match i with
  -- Word transmission operations
  | .cla o => Sys2Proof.Machine.execCla o s
  | .cal o => Sys2Proof.Machine.execCal o s
  | .cls o => Sys2Proof.Machine.execCls o s
  | .lla o => Sys2Proof.Machine.execLla o s
  | .lra o => Sys2Proof.Machine.execLra o s
  | .ldq o => Sys2Proof.Machine.execLdq o s
  | .dla o => Sys2Proof.Machine.execDla o s
  | .dlld o => Sys2Proof.Machine.execDlld o s
  | .dldn o => Sys2Proof.Machine.execDldn o s
  | .sto o => Sys2Proof.Machine.execSto o s
  | .slw o => Sys2Proof.Machine.execSlw o s
  | .stal o => Sys2Proof.Machine.execStal o s
  | .star o => Sys2Proof.Machine.execStar o s
  | .stan o => Sys2Proof.Machine.execStan o s
  | .stq o => Sys2Proof.Machine.execStq o s
  | .slq o => Sys2Proof.Machine.execSlq o s
  | .dst o => Sys2Proof.Machine.execDst o s
  | .dlsf o => Sys2Proof.Machine.execDlsf o s
  | .dstn o => Sys2Proof.Machine.execDstn o s
  | .stz o => Sys2Proof.Machine.execStz o s
  | .stl o => Sys2Proof.Machine.execStl o s
  | .xca o => Sys2Proof.Machine.execXca o s
  | .xcl o => Sys2Proof.Machine.execXcl o s
  | .enk o => Sys2Proof.Machine.execEnk o s
  | .scpu o => Sys2Proof.Machine.execScpu o s
  | .rcpu o => Sys2Proof.Machine.execRcpu o s
  -- Fixed point operations
  | .add o => Sys2Proof.Machine.execAdd o s
  | .adm o => Sys2Proof.Machine.execAdm o s
  | .acl o => Sys2Proof.Machine.execAcl o s
  | .sub o => Sys2Proof.Machine.execSub o s
  | .sbm o => Sys2Proof.Machine.execSbm o s
  | .mpy o => Sys2Proof.Machine.execMpy o s
  | .mpr o => Sys2Proof.Machine.execMpr o s
  | .imp o => Sys2Proof.Machine.execImp o s
  | .vlm o => Sys2Proof.Machine.execVlm o s
  | .rnd o => Sys2Proof.Machine.execRnd o s
  | .dvt o => Sys2Proof.Machine.execDvt o s
  | .idv o => Sys2Proof.Machine.execIdv o s
  | .vdt o => Sys2Proof.Machine.execVdt o s
  -- Floating point operations
  | .fad o => Sys2Proof.Machine.execFad o s
  | .fam o => Sys2Proof.Machine.execFam o s
  | .ufa o => Sys2Proof.Machine.execUfa o s
  | .uam o => Sys2Proof.Machine.execUam o s
  | .fsb o => Sys2Proof.Machine.execFsb o s
  | .fsm o => Sys2Proof.Machine.execFsm o s
  | .ufs o => Sys2Proof.Machine.execUfs o s
  | .usm o => Sys2Proof.Machine.execUsm o s
  | .fmp o => Sys2Proof.Machine.execFmp o s
  | .ufm o => Sys2Proof.Machine.execUfm o s
  | .frn o => Sys2Proof.Machine.execFrn o s
  | .fdt o => Sys2Proof.Machine.execFdt o s
  | .fdh o => Sys2Proof.Machine.execFdh o s
  | .frd o => Sys2Proof.Machine.execFrd o s
  | .adxp o => Sys2Proof.Machine.execAdxp o s
  | .dfad o => Sys2Proof.Machine.execDfad o s
  | .dfam o => Sys2Proof.Machine.execDfam o s
  | .dufa o => Sys2Proof.Machine.execDufa o s
  | .duam o => Sys2Proof.Machine.execDuam o s
  | .dfsb o => Sys2Proof.Machine.execDfsb o s
  | .dfsm o => Sys2Proof.Machine.execDfsm o s
  | .dufs o => Sys2Proof.Machine.execDufs o s
  | .dusm o => Sys2Proof.Machine.execDusm o s
  | .dfmp o => Sys2Proof.Machine.execDfmp o s
  | .dufm o => Sys2Proof.Machine.execDufm o s
  | .dfdt o => Sys2Proof.Machine.execDfdt o s
  | .dfrd o => Sys2Proof.Machine.execDfrd o s
  -- Shifting operations
  | .als o => Sys2Proof.Machine.execAls o s
  | .ars o => Sys2Proof.Machine.execArs o s
  | .lls o => Sys2Proof.Machine.execLls o s
  | .lrs o => Sys2Proof.Machine.execLrs o s
  | .lgl o => Sys2Proof.Machine.execLgl o s
  | .lgr o => Sys2Proof.Machine.execLgr o s
  | .rql o => Sys2Proof.Machine.execRql o s
  -- Control operations
  | .nop o => Sys2Proof.Machine.execNop o s
  | .hpr o => Sys2Proof.Machine.execHpr o s
  | .htr o => Sys2Proof.Machine.execHtr o s
  | .xec o => Sys2Proof.Machine.execXec o s
  | .tra o => Sys2Proof.Machine.execTra o s
  | .ttr o => Sys2Proof.Machine.execTtr o s
  | .tze o => Sys2Proof.Machine.execTze o s
  | .tnz o => Sys2Proof.Machine.execTnz o s
  | .tpl o => Sys2Proof.Machine.execTpl o s
  | .tmi o => Sys2Proof.Machine.execTmi o s
  | .tzm o => Sys2Proof.Machine.execTzm o s
  | .tzp o => Sys2Proof.Machine.execTzp o s
  | .tgz o => Sys2Proof.Machine.execTgz o s
  | .tlz o => Sys2Proof.Machine.execTlz o s
  | .tov o => Sys2Proof.Machine.execTov o s
  | .tno o => Sys2Proof.Machine.execTno o s
  | .tqp o => Sys2Proof.Machine.execTqp o s
  | .tlq o => Sys2Proof.Machine.execTlq o s
  | .pse o => Sys2Proof.Machine.execPse o s
  | .mse o => Sys2Proof.Machine.execMse o s
  | .pbt o => Sys2Proof.Machine.execPbt o s
  | .lbt o => Sys2Proof.Machine.execLbt o s
  | .zet o => Sys2Proof.Machine.execZet o s
  | .nzt o => Sys2Proof.Machine.execNzt o s
  | .cas o => Sys2Proof.Machine.execCas o s
  | .las o => Sys2Proof.Machine.execLas o s
  | .tsl o => Sys2Proof.Machine.execTsl o s
  | .smp o => Sys2Proof.Machine.execSmp o s
  | .etm o => Sys2Proof.Machine.execEtm o s
  | .ltm o => Sys2Proof.Machine.execLtm o s
  | .ltmr o => Sys2Proof.Machine.execLtmr o s
  | .stmr o => Sys2Proof.Machine.execStmr o s
  | .lrtc o => Sys2Proof.Machine.execLrtc o s
  | .srtc o => Sys2Proof.Machine.execSrtc o s
  | .ctr o => Sys2Proof.Machine.execCtr o s
  | .ptr o => Sys2Proof.Machine.execPtr o s
  | .scar o => Sys2Proof.Machine.execScar o s
  | .cmon o => Sys2Proof.Machine.execCmon o s
  -- Index operations
  | .axi o => Sys2Proof.Machine.execAxi o s
  | .axc o => Sys2Proof.Machine.execAxc o s
  | .pax o => Sys2Proof.Machine.execPax o s
  | .pac o => Sys2Proof.Machine.execPac o s
  | .pxa o => Sys2Proof.Machine.execPxa o s
  | .pxd o => Sys2Proof.Machine.execPxd o s
  | .pdc o => Sys2Proof.Machine.execPdc o s
  | .pcd o => Sys2Proof.Machine.execPcd o s
  | .pca o => Sys2Proof.Machine.execPca o s
  | .sxa o => Sys2Proof.Machine.execSxa o s
  | .sxd o => Sys2Proof.Machine.execSxd o s
  | .sca o => Sys2Proof.Machine.execSca o s
  | .scd o => Sys2Proof.Machine.execScd o s
  | .lxa o => Sys2Proof.Machine.execLxa o s
  | .lxd o => Sys2Proof.Machine.execLxd o s
  | .lac o => Sys2Proof.Machine.execLac o s
  | .ldc o => Sys2Proof.Machine.execLdc o s
  | .adxs o => Sys2Proof.Machine.execAdxs o s
  | .adxd o => Sys2Proof.Machine.execAdxd o s
  | .adxi o => Sys2Proof.Machine.execAdxi o s
  | .sbxs o => Sys2Proof.Machine.execSbxs o s
  | .sbxd o => Sys2Proof.Machine.execSbxd o s
  | .sbxi o => Sys2Proof.Machine.execSbxi o s
  | .pchx o => Sys2Proof.Machine.execPchx o s
  | .tsx o => Sys2Proof.Machine.execTsx o s
  | .txf o => Sys2Proof.Machine.execTxf o s
  | .txrh o => Sys2Proof.Machine.execTxrh o s
  | .txnh o => Sys2Proof.Machine.execTxnh o s
  | .txrl o => Sys2Proof.Machine.execTxrl o s
  | .txnl o => Sys2Proof.Machine.execTxnl o s
  | .txre o => Sys2Proof.Machine.execTxre o s
  | .txne o => Sys2Proof.Machine.execTxne o s
  | .lxs o => Sys2Proof.Machine.execLxs o s
  | .cxs o => Sys2Proof.Machine.execCxs o s
  | .cxd o => Sys2Proof.Machine.execCxd o s
  | .cxi o => Sys2Proof.Machine.execCxi o s
  | .xlf o => Sys2Proof.Machine.execXlf o s
  | .xlb o => Sys2Proof.Machine.execXlb o s
  | .smx o => Sys2Proof.Machine.execSmx o s
  | .lmx o => Sys2Proof.Machine.execLmx o s
  -- Logical operations
  | .ora o => Sys2Proof.Machine.execOra o s
  | .ors o => Sys2Proof.Machine.execOrs o s
  | .ana o => Sys2Proof.Machine.execAna o s
  | .ans o => Sys2Proof.Machine.execAns o s
  | .era o => Sys2Proof.Machine.execEra o s
  | .ers o => Sys2Proof.Machine.execErs o s
  | .com o => Sys2Proof.Machine.execCom o s
  | .clm o => Sys2Proof.Machine.execClm o s
  | .chs o => Sys2Proof.Machine.execChs o s
  | .ssp o => Sys2Proof.Machine.execSsp o s
  | .ssm o => Sys2Proof.Machine.execSsm o s
  | .ados o => Sys2Proof.Machine.execAdos o s
  -- Sense indicator operations
  | .ldi o => Sys2Proof.Machine.execLdi o s
  | .sti o => Sys2Proof.Machine.execSti o s
  | .pai o => Sys2Proof.Machine.execPai o s
  | .pia o => Sys2Proof.Machine.execPia o s
  | .oai o => Sys2Proof.Machine.execOai o s
  | .osi o => Sys2Proof.Machine.execOsi o s
  | .ois o => Sys2Proof.Machine.execOis o s
  | .ril o => Sys2Proof.Machine.execRil o s
  | .rir o => Sys2Proof.Machine.execRir o s
  | .sil o => Sys2Proof.Machine.execSil o s
  | .sir o => Sys2Proof.Machine.execSir o s
  | .ria o => Sys2Proof.Machine.execRia o s
  | .ris o => Sys2Proof.Machine.execRis o s
  | .iia o => Sys2Proof.Machine.execIia o s
  | .iis o => Sys2Proof.Machine.execIis o s
  | .iil o => Sys2Proof.Machine.execIil o s
  | .iir o => Sys2Proof.Machine.execIir o s
  | .oft o => Sys2Proof.Machine.execOft o s
  | .ont o => Sys2Proof.Machine.execOnt o s
  | .rft o => Sys2Proof.Machine.execRft o s
  | .rnt o => Sys2Proof.Machine.execRnt o s
  | .lft o => Sys2Proof.Machine.execLft o s
  | .lnt o => Sys2Proof.Machine.execLnt o s
  | .laci o => Sys2Proof.Machine.execLaci o s
  | .saci o => Sys2Proof.Machine.execSaci o s
  | .lasi o => Sys2Proof.Machine.execLasi o s
  | .casi o => Sys2Proof.Machine.execCasi o s
  -- Special purpose operations
  | .flt o => Sys2Proof.Machine.execFlt o s
  | .fix o => Sys2Proof.Machine.execFix o s
  | .cdec o => Sys2Proof.Machine.execCdec o s
  | .cbin o => Sys2Proof.Machine.execCbin o s
  | .sqxl o => Sys2Proof.Machine.execSqxl o s
  | .sxar o => Sys2Proof.Machine.execSxar o s
  | .sqxt o => Sys2Proof.Machine.execSqxt o s
  | .sxat o => Sys2Proof.Machine.execSxat o s
  -- Input-output operations
  | .stc o => Sys2Proof.Machine.execStc o s
  | .cht o => Sys2Proof.Machine.execCht o s
  | .sch o => Sys2Proof.Machine.execSch o s
  | .hch o => Sys2Proof.Machine.execHch o s
  | .ict o => Sys2Proof.Machine.execIct o s
  -- Special purpose operations
  | .sbp o => Sys2Proof.Machine.execSbp o s
  -- Input-output operations
  | .enb o => Sys2Proof.Machine.execEnb o s
  -- channel commands and data control words
  | .chSense m flags y => Sys2Proof.Machine.execChSense m flags y s
  | .chReadBackward m flags y => Sys2Proof.Machine.execChReadBackward m flags y s
  | .chWrite m flags y => Sys2Proof.Machine.execChWrite m flags y s
  | .chRead m flags y => Sys2Proof.Machine.execChRead m flags y s
  | .chControl m flags y => Sys2Proof.Machine.execChControl m flags y s
  | .chTch flags y => Sys2Proof.Machine.execChTch flags y s
  | .chXec flags y => Sys2Proof.Machine.execChXec flags y s
  | .dcwTcw c y => Sys2Proof.Machine.execDcwTcw c y s
  | .dcwTcwInd c y => Sys2Proof.Machine.execDcwTcwInd c y s
  | .dcwCcw c y => Sys2Proof.Machine.execDcwCcw c y s
  | .dcwCcwn c y => Sys2Proof.Machine.execDcwCcwn c y s
  | .dcwCcwInd c y => Sys2Proof.Machine.execDcwCcwInd c y s

end Sys2Proof.Machine
end

