-- ==== Sys2Proof/Machine/Cycle.lean ====
section
/-! DEFINITION. One step of the run: the processor's cycle, or a turn of another agent, or an act of the operator
(R500, R466, R472). -/

namespace Sys2Proof.Machine

/-! ## The processor (R500) -/

/-- Fetch: IL and PC are set, and the word read (R27, R90). A turn before the fetch is a step of its own. -/
def withFetched (s : State) (k : Word → State → Result) : Result :=
  readWord s s.pc fun w => k w { s with il := s.pc, pc := s.pc + 1 }

/-- Fetch, decode and execute one instruction (R500). -/
def runInstruction (s : State) : Result :=
  withFetched s fun w s => withDecoded w s exec

/-- One step of the processor (R500): nothing while halted; a deliverable channel trap before the fetch; a
refusal in Compatible Mode; else one instruction. -/
def cpuCycle (pick : Nat) (s : State) : Result :=
  if s.halted then .next s
  else
    match s.chooseTrap pick with
    | some (ch, k) => raiseChannelTrap ch k s
    | none => if s.compat then .refused .compatibleMode else runInstruction s

/-! ## Events and steps (R48, R472, R564) -/

/-- One event of the run (R48, R472). -/
def runEvent (e : Event) (s : State) : Result :=
  match e with
  | .cpu pick _ => cpuCycle pick s
  | .turn t => runTurn t s
  | .start => .next { s with halted := false }
  | .keys w => .next { s with keys := w }
  | .switches b => .next { s with switches := b }

/-- The turns that fall inside the coming step: those its event lists (log 33). -/
def turnsInside (script : List Event) : List (List Turn) :=
  match script with
  | .cpu _ inside :: _ => inside
  | _ => []

/-- The state in which a step's event runs: the event is taken off the script, the turns it lists stand ready, and
the counter of the free values moves on (log 36). -/
def State.advance (s : State) : State :=
  { s with script := s.script.tail, tick := s.tick + 1, inside := turnsInside s.script }

/-- One step: the next event of the script, or, the script exhausted, the processor (R564; log 36). -/
def cycle (s : State) : Result :=
  match s.script with
  | [] => cpuCycle (Config.trapChoice s.tick) s.advance
  | e :: _ => runEvent e s.advance

/-! ## Placing an instruction (the host's check) -/

/-- The word of a table instruction, the bits above `nbits` zero (R101). -/
def tableWord (nbits w : Nat) : Word := BitVec.ofNat 36 (w % 2 ^ nbits)

/-- The state with a word where the next step fetches it, and nothing in the way of the fetch (log 4). -/
def placeWord (w : Word) (s : State) : State :=
  { s.poke s.pc w with
    halted := false
    compat := false
    cti := s.cti || !s.deliverables.isEmpty
    script := if s.script.isEmpty then [] else .cpu 0 [] :: s.script }

end Sys2Proof.Machine
end

