-- ==== Sys2Proof/Machine/Step.lean ====
section
/-! DEFINITION. One step of the machine, and placing an instruction where it is fetched. -/

namespace Sys2Proof.Machine

/-- One step of the machine (Cycle.lean). -/
def step (s : State) : Host.Outcome State Fault Refusal := cycle s

/-- The state with an instruction placed where the next step fetches it (Cycle.lean; log 4). -/
def State.withFetchWord (s : State) (nbits w : Nat) : State := placeWord (tableWord nbits w) s

end Sys2Proof.Machine
end

