-- ==== Sys2Proof/Safety.lean ====
section
/-! DEFINITION. What the claims about runs are stated with: canonical storage, stored words, the locations the
hardware's own stores use, the addresses a trap leaves for, and the instruction an XEC chain comes to. -/

namespace Sys2Proof.Machine

/-- Storage is in its canonical form. -/
def State.wf (s : State) : Bool := s.mem.wf

/-- Between `s` and `t` the words `ws` are stored from address `a` upward, and no other word of storage changes
its value or gets one. -/
def Stored (s t : State) (a : Addr) (ws : List Word) : Prop :=
  (∀ k : Nat, k < ws.length → t.load (a + BitVec.ofNat 18 k) = ws[k]?) ∧
    ∀ b : Addr, (∀ k : Nat, k < ws.length → b ≠ a + BitVec.ofNat 18 k) → t.load b = s.load b

/-- Between `s` and `t` nothing but storage changes. -/
def OnlyStorage (s t : State) : Prop := t = { s with mem := t.mem }

/-- Every word of storage reads in `t` as in `s`. -/
def SameStorage (s t : State) : Prop := ∀ b : Addr, t.load b = s.load b

/-- The locations the CPU traps store to: R1, R2, R4 and R5 (R502). -/
def cpuTrapStores : List Addr := [FixedLocation.r1, .r2, .r4, .r5].map locationAddress

/-- The addresses CPU traps of 7095 Mode leave for: R6, R7, R9 and R10 (R502). -/
def cpuTrapTargets : List Addr := [FixedLocation.r6, .r7, .r9, .r10].map locationAddress

/-- The registers only Monitor Mode may change: the bounds, channel assignment, both channel-trap inhibits and
the enable masks (R507). -/
def SamePrivileges (s t : State) : Prop :=
  t.hpr = s.hpr ∧ t.lpr = s.lpr ∧ t.car = s.car ∧ t.ictMask = s.ictMask ∧ t.cti = s.cti ∧
    ∀ ch : ChannelId, (t.channel ch).enb = (s.channel ch).enb

/-- The algebraic value of a sign and a magnitude; the two zeros have one value (R11). -/
def algebraic (b : Bool) (m : Nat) : Int := if b then -(m : Int) else m

/-- The order TLQ compares by: algebraic, minus zero just below plus zero (R271). -/
def algebraicRank (b : Bool) (m : Nat) : Int := if b then -(m : Int) - 1 else m

/-- The words of a block of `n` index registers after its first: pair `k` holds XR[2k] and XR[2k + 1], the last
right half zero when `n` is even (R165, R340). -/
def pairOf (s : State) (n k : Nat) : Word :=
  joinHalves (s.x (2 * k)) (if 2 * k + 1 ≤ n then s.x (2 * k + 1) else 0)

/-- The half of a block's words from which index register `j` is loaded, `first` being the word that holds XR1
(R166, R341). -/
def halfFor (j : Nat) (first : Word) (pairs : List Word) : Addr :=
  if j = 1 then rightHalf first
  else if j % 2 = 0 then leftHalf (pairs.getD (j / 2 - 1) 0)
  else rightHalf (pairs.getD (j / 2 - 1) 0)

/-- The half word in which SCPU keeps the indicators: OV, P, Q and the three compare indicators at the places of the
default `SCPU_LAYOUT`, zeros elsewhere (R165, log 8). -/
def IndicatorHalf (s : State) (h : Addr) : Prop :=
  halfPosition h 0 = s.ov ∧ halfPosition h 1 = s.ac.p ∧ halfPosition h 2 = s.ac.q ∧ halfPosition h 3 = s.ixh ∧
    halfPosition h 4 = s.ixl ∧ halfPosition h 5 = s.ixe ∧ ∀ p : Fin 18, 5 < p.val → halfPosition h p = false

/-- The block SCPU stores for a count `n`, `h` being its indicator half (R165). -/
def scpuBlock (s : State) (n : Nat) (h : Addr) : List Word :=
  signed s.ac.s s.ac.mag :: joinHalves h (if 1 ≤ n then s.x 1 else 0) ::
    (List.range (n / 2)).map fun k => pairOf s n (k + 1)

/-- The block SMX stores for a count `n`, `w` being the word at its first address (R340). -/
def smxBlock (s : State) (n : Nat) (w : Word) : List Word :=
  joinHalves (leftHalf w) (s.x 1) :: (List.range (n / 2)).map fun k => pairOf s n (k + 1)

/-- Storage holds the words `ws` from address `a` upward. -/
def Holds (s : State) (a : Addr) (ws : List Word) : Prop :=
  ∀ k : Nat, k < ws.length → s.load (a + BitVec.ofNat 18 k) = ws[k]?

/-- The conditional transfers of the double-indexed class that do nothing else, each with its condition
(R258, R260-R267, R270, R271, R327-R332). -/
def plainTransfers (o : Operand) (s : State) : List (Instr × Bool) :=
  [(.tra o, true), (.tze o, decide (s.ac.m = 0)), (.tnz o, decide (s.ac.m ≠ 0)), (.tpl o, !s.ac.s),
    (.tmi o, s.ac.s), (.tzm o, s.ac.s || decide (s.ac.m = 0)), (.tzp o, !s.ac.s || decide (s.ac.m = 0)),
    (.tgz o, !s.ac.s && decide (s.ac.m ≠ 0)), (.tlz o, s.ac.s && decide (s.ac.m ≠ 0)),
    (.tqp o, !signOf s.mq),
    (.tlq o, decide (algebraicRank (signOf s.mq) (magnitude s.mq).toNat < algebraicRank s.ac.s s.ac.m.toNat)),
    (.txrh o, s.ixh), (.txnh o, !s.ixh), (.txrl o, s.ixl), (.txnl o, !s.ixl), (.txre o, s.ixe),
    (.txne o, !s.ixe)]

/-- The single-precision floating-point instructions that end with both result registers, each with what its
function returns (R203-R212, R214, R215). -/
def singleFloating (o : Operand) (s : State) (w : Word) : List (Instr × FpResult) :=
  let n := Config.numerics
  [(.fad o, n.fadd s.ac w true), (.fam o, n.fadd s.ac (signed false (magnitude w)) true),
    (.ufa o, n.fadd s.ac w false), (.uam o, n.fadd s.ac (signed false (magnitude w)) false),
    (.fsb o, n.fadd s.ac (signed (!signOf w) (magnitude w)) true),
    (.fsm o, n.fadd s.ac (signed true (magnitude w)) true),
    (.ufs o, n.fadd s.ac (signed (!signOf w) (magnitude w)) false),
    (.usm o, n.fadd s.ac (signed true (magnitude w)) false),
    (.fmp o, n.fmul s.mq w true), (.ufm o, n.fmul s.mq w false), (.fdt o, n.fdiv s.ac w), (.fdh o, n.fdiv s.ac w)]

/-- The double-precision adds and subtracts, each with what the open function returns (R218-R225). -/
def doubleFloating (o : Operand) (s : State) (w0 w1 : Word) : List (Instr × FpResult) :=
  let n := Config.numerics
  let flip (w : Word) : Word := signed (!signOf w) (magnitude w)
  let plus (w : Word) : Word := signed false (magnitude w)
  let minus (w : Word) : Word := signed true (magnitude w)
  [(.dfad o, n.dfadd s.ac s.mq w0 w1 true), (.dfam o, n.dfadd s.ac s.mq (plus w0) (plus w1) true),
    (.dufa o, n.dfadd s.ac s.mq w0 w1 false), (.duam o, n.dfadd s.ac s.mq (plus w0) (plus w1) false),
    (.dfsb o, n.dfadd s.ac s.mq (flip w0) (flip w1) true),
    (.dfsm o, n.dfadd s.ac s.mq (minus w0) (minus w1) true),
    (.dufs o, n.dfadd s.ac s.mq (flip w0) (flip w1) false),
    (.dusm o, n.dfadd s.ac s.mq (minus w0) (minus w1) false)]

/-- The double-precision multiplies and divides, which leave SI free (R226-R229). -/
def doubleProducts (o : Operand) (s : State) (w0 w1 : Word) : List (Instr × FpResult) :=
  let n := Config.numerics
  [(.dfmp o, n.dfmul s.ac s.mq w0 w1 true), (.dufm o, n.dfmul s.ac s.mq w0 w1 false),
    (.dfdt o, n.dfdiv s.ac s.mq (Acc.ofSigned w0) w1), (.dfrd o, n.dfdiv (Acc.ofSigned w0) w1 s.ac s.mq)]

/-- A double-length floating-point result: characteristic `c` and the upper half of the 54-bit fraction `f` in AC,
characteristic `mqc` and the lower half in MQ, each modulo its field, with the spills they call for (R201, R231). -/
def Packed (r : FpResult) (c mqc : Int) (f : Nat) : Prop :=
  f < 2 ^ 54 ∧ r.ac.m.toNat = (c % 1024).toNat * 2 ^ 27 + f / 2 ^ 27 ∧
    (magnitude r.mq).toNat = (mqc % 256).toNat * 2 ^ 27 + f % 2 ^ 27 ∧
    r.sp = { acOverflow := decide (255 < c), acUnderflow := decide (c < 0),
             mqOverflow := decide (255 < mqc), mqUnderflow := decide (mqc < 0) }

/-- The turns of other agents that fall before the coming storage access take `s` to `u` (R77). -/
def BeforeAccess (s u : State) : Prop :=
  match s.inside with
  | [] => u = s
  | turns :: rest => runTurns turns { s with inside := rest } = .next u

/-- Reading the word at `a` in `s` gives `w` and leaves `u` (R72, R77). -/
def Reads (s : State) (a : Addr) (w : Word) (u : State) : Prop := BeforeAccess s u ∧ u.load a = some w

/-- Forming an effective address in `s` gives `ea` and leaves `u` (R104-R106). -/
inductive Addresses : Indexing → Operand → State → Addr → State → Prop where
  | direct {d : Indexing} {o : Operand} {s : State} (h : o.f = false) : Addresses d o s (directAddress d o s) s
  | indirect {d : Indexing} {o : Operand} {s u v : State} {iw : Word} {ea : Addr} (h : o.f = true)
      (hr : Reads s (directAddress d o s) iw u) (ha : Addresses .double (operandField iw) u ea v) :
      Addresses d o s ea v

/-- The instruction that a word met by XEC stands for, its address formed first where decoding needs it (R121,
R254). -/
inductive Decodes : State → Word → Instr → State → Prop where
  | plain {s : State} {w : Word} {i : Instr} (hn : needsSelector w = false) (hd : decodeCpu w 0 = .ok i) :
      Decodes s w i s
  | selector {s u : State} {w : Word} {i : Instr} {x : Addr} (hn : needsSelector w = true)
      (ha : Addresses .double (operandField w) s x u) (hd : decodeCpu (formedWord w x) x = .ok i) : Decodes s w i u

/-- The processor about to execute `i` in `s` comes to execute `j`, which is no XEC, in `u`: `i` itself, or the
instruction at the end of the XEC chain that `i` begins (R254, R255). -/
inductive ComesTo : State → Instr → State → Instr → Prop where
  | here {s : State} {i : Instr} (h : ∀ o, i ≠ .xec o) : ComesTo s i s i
  | object {s s1 s2 s3 u : State} {o : Operand} {ea : Addr} {w : Word} {i j : Instr}
      (ha : Addresses .double o s ea s1) (hr : Reads s1 ea w s2) (hd : Decodes s2 w i s3) (h : ComesTo s3 i u j) :
      ComesTo s (.xec o) u j

/-- The addresses the channel trap stores to: the three channel words and the CPU status location (R469,
R514). -/
def channelTrapStores : List Addr :=
  [Config.statusLocation, Config.channelWordLocation 0, Config.channelWordLocation 1,
    Config.channelWordLocation 2]

end Sys2Proof.Machine
end

