-- ==== Sys2Proof/Certificates/Slice0/Obligations.lean ====
section
/-! DEFINITION. The statements for the provers. -/

open Sys2Proof Sys2Proof.Machine

/-- Words written out from the spec's encodings decode to the instructions they stand for. R101, R111, R112, R116,
R451, R458: the words A1, A2, A4, A8, A9, A11, A14, K2 and W5 of the spec's vectors. The effective address as
selector is D13 of the spec (log 30), the refusal of unassigned codes and selectors D12 (log 55). -/
def Obligations.DecodeWrittenWords : Prop :=
  decodeCpu 0o240000000300 0o300 = .ok (.cla { f := false, t1 := 0, t2 := 0, y := 0o300 }) ∧
    decodeCpu 0o640000000300 0o300 = .ok (.cal { f := false, t1 := 0, t2 := 0, y := 0o300 }) ∧
    decodeCpu 0o240417000300 0o400 = .ok (.cla { f := true, t1 := 0, t2 := 15, y := 0o300 }) ∧
    decodeCpu 0o374060001000 0o1000 = .ok (.axi { f := false, t1 := 3, t2 := 0, y := 0o1000 }) ∧
    decodeCpu 0o777000000002 2 = .ok (.ars { f := false, t1 := 0, t2 := 0, y := 2 }) ∧
    decodeCpu 0o770000000003 3 = .ok (.ssm { f := false, t1 := 0, t2 := 0, y := 3 }) ∧
    decodeCpu 0o370000000142 0o142 = .ok (.pse { f := false, t1 := 0, t2 := 0, y := 0o142 }) ∧
    decodeCpu 0o370000000005 5 = .error .unassignedSelector ∧
    decodeCpu 0o001000000000 0 = .error .unassignedOperation ∧
    decodeChannel 0o700104004000 =
      some (.chWrite 0
        { spare := false, sixBit := false, bcd := false, advance := true, indirect := false, immediate := false }
        0o4000) ∧
    decodeChannel 0o600012004000 = some (.dcwCcwInd 10 0o4000)

/-- Decoding the word of any instruction gives the instruction back. R101, R102, R111, R450, R457: no bit of an
encoding is dropped, over all 217 constructors. The codes of R115 are the provisional ones, D2 of the spec (log
11). The effective address as selector is D13 of the spec (log 30). -/
def Obligations.EncodedInstructionsDecode : Prop :=
  (∀ (i : Instr) (ea : Addr), i.isCpu = true → i.selectedBy ea = true → decodeCpu (encode i) ea = .ok i) ∧
    ∀ i : Instr, i.isCpu = false → decodeChannel (encode i) = some i

/-- A word that decodes to an instruction is the word of that instruction. R101, R111, R450, R457: each word has one
meaning. The codes of R115 are the provisional ones, D2 of the spec (log 11), the effective address as selector
is D13 of the spec (log 30). -/
def Obligations.DecodedWordsEncode : Prop :=
  (∀ (w : Word) (ea : Addr) (i : Instr), decodeCpu w ea = .ok i →
      encode i = w ∧ i.isCpu = true ∧ i.selectedBy ea = true) ∧
    ∀ (w : Word) (i : Instr), decodeChannel w = some i → encode i = w ∧ i.isCpu = false

/-- A well-formed instruction with an unmodified address is read from its table word. R104, R111, R121: with F and
both tags zero the effective address is the address field (log 30). The effective address as selector is D13 of
the spec (log 30), the codes of R115 are the provisional ones, D2 (log 11). -/
def Obligations.WellFormedTableWords : Prop :=
  ∀ i : Instr, i.wellFormed = true → i.isCpu = true → (operandField (encode i)).isPlain = true →
    decodeTableWord 40 (encode i).toNat = some i

/-- A step runs the decoded instruction, the processor's and the channel's. R500, R121, R466, R77. The script that
says whose turn it is is the model's (log 36), and so are the turns inside a step (log 33). That a channel trap
is recognised before the fetch and nowhere else is D31 of the spec (log 47). That a 370-group word is decoded by
its effective address is D13 of the spec (log 30). Addresses, PC and Y + 1 among them, wrap by D17 (log 63).
That the fetch sees every earlier store is D16 (log 34). -/
def Obligations.StepRunsDecoded : Prop :=
  (∀ (s u : State) (pick : Nat) (inside : List (List Turn)) (rest : List Event) (w : Word) (ea : Addr) (i : Instr),
      (s.script = [] ∨ s.script = .cpu pick inside :: rest) → s.halted = false → s.compat = false →
      s.deliverables = [] → s.load s.pc = some w → u = { s.advance with il := s.pc, pc := s.pc + 1 } →
      (needsSelector w = true →
        effectiveAddress .double (operandField w) u = .ok ea ∧ (u.inside = [] ∨ (operandField w).f = false)) →
      decodeCpu w ea = .ok i →
      step s = exec i u) ∧
    ∀ (s : State) (ch : ChannelId) (r : DeviceReply) (rest : List Event) (cur : Option Command) (w : Word)
      (i : Instr),
      s.script = .turn (.channel ch r) :: rest → (s.channel ch).phase = .decode cur w →
      decodeChannel w = some i →
      step s = exec i { s.advance with acting := ch }

/-- Effective addresses: double, single, indirect through any number of words; endless exactly when never ending.
R104, R105, R106. That the equation holds for chains of every length, those that never end included, rests on
the bound of the search, which the last clause states: a chain that has not ended after 2^18 words has met an
address twice (R106, D47, log 29); a word without a value stops the model (R49, D14, log 2). Tag zero is D1 of
the spec (log 21), the list of single-indexed instructions D6 (log 83). -/
def Obligations.EffectiveAddressForms : Prop :=
  (∀ (s : State) (o : Operand),
      ∀ p ∈ [(Indexing.double, o.y - s.x o.t1.toNat - s.x o.t2.toNat), (.single, o.y - s.x o.t2.toNat)],
        (o.f = false → effectiveAddress p.1 o s = .ok p.2) ∧
        (o.f = true → s.load p.2 = none → effectiveAddress p.1 o s = .error .unwrittenStorage) ∧
        ∀ w : Word, o.f = true → s.load p.2 = some w →
          effectiveAddress p.1 o s = effectiveAddress .double (operandField w) s) ∧
    ∀ (s : State) (a : Addr),
      chase chainFuel s a = .error .endlessIndirectChain ↔
        ∀ n : Nat, chase n s a = .error .endlessIndirectChain

/-- Storage words and index registers read back what was written; tag zero names no register. R72, R73, R23, R24.
That tag zero names no register is decision D1 of the spec (log 21). -/
def Obligations.AccessLaws : Prop :=
  (∀ (s : State) (a : Addr) (w : Word),
      (s.poke a w).load a = some w ∧ (∀ b, b ≠ a → (s.poke a w).load b = s.load b) ∧
        OnlyStorage s (s.poke a w)) ∧
    ∀ (s : State) (v : Addr), s.x 0 = 0 ∧ s.setX 0 v = s ∧
      ∀ n : Nat, 1 ≤ n → n ≤ 15 →
        (s.setX n v).x n = v ∧ (∀ m, m ≠ n → (s.setX n v).x m = s.x m) ∧
          s.setX n v = { s with xr := (s.setX n v).xr }

/-- Every step keeps storage canonical. R45, R70: the form of the model's storage (log 1); the invariant that makes
equal storages equal data. -/
def Obligations.StepKeepsStorageCanonical : Prop :=
  ∀ s t : State, s.wf = true → step s = .next t → t.wf = true

/-- The machine right after reset. R560 for COMPAT and PROBLEM; everything else here is the model's choice, D14 of
the spec among them, logs 2, 4 and 5. -/
def Obligations.ResetState : Prop :=
  State.reset.compat = false ∧ State.reset.problem = false ∧ State.reset.ttrap = false ∧
    State.reset.halted = false ∧ State.reset.cti = false ∧ State.reset.pc = Config.resetPc ∧
    State.reset.wf = true ∧ State.reset.deliverables = [] ∧
    (∀ a, State.reset.load a = none) ∧
    ∀ ch, (State.reset.channel ch).phase = .idle ∧ (State.reset.channel ch).enb = 0 ∧
      (∀ k, (State.reset.channel ch).pending k = false) ∧ maskBit State.reset.ictMask ch = true

/-- When a store is a protect violation. R73, R80, R81, R505. That the comparison is unsigned and that the violating
word is not stored are decision D9 of the spec (log 31): R73 says that the source does not state the latter. No
turn of another agent falls inside the instruction (log 33; TurnsBetweenAccesses). ActualViolation says R81
without these choices. What a trap's entry saves is TrapEntry's, with the choices named there (logs 6, 12, 31,
57). -/
def Obligations.ProtectionVerdict : Prop :=
  ∀ (s : State) (a : Addr),
    (s.outsideBounds a = true ↔ s.hpr.toNat < a.toNat / 2 ^ 8 ∨ a.toNat / 2 ^ 8 < s.lpr.toNat) ∧
    (s.violates a = true ↔ s.outsideBounds a = true ∧ s.problem = true) ∧
    (s.inside = [] → s.problem = false → ∀ (w : Word) (k : State → Result), withStore a w s k = k (s.poke a w)) ∧
    (s.inside = [] → s.violates a = true → ∀ (w : Word) (k : State → Result),
      withStore a w s k = .next (takeTrap .protectViolation s)) ∧
    (s.hpr.toNat < s.lpr.toNat → ∀ b : Addr, s.outsideBounds b = true)

/-- A protect violation by the processor is actual only in Problem Program Mode, and then traps. R81. When a
violation is potential is R80's (ProtectionVerdict); nothing is said here of the violating word. What the entry
of the trap saves is TrapEntry's and is not said here. No turn of another agent falls inside (log 33). -/
def Obligations.ActualViolation : Prop :=
  ∀ (s : State) (a : Addr) (w : Word) (k : State → Result), s.inside = [] →
    (s.problem = false ∨ s.outsideBounds a = false → withStore a w s k = k (s.poke a w)) ∧
    (s.problem = true → s.outsideBounds a = true →
      ∃ u, withStore a w s k = .next (takeTrap .protectViolation u) ∧ OnlyStorage s u ∧
        ∀ b, b ≠ a → u.load b = s.load b)

/-- CLA, CAL, CLS, LLA, LRA, LDQ, LDI, LACI and the double-word loads DLA, DLLD, DLDN. R141-R149, R381, R404. That
DLDN and LACI clear Q and P is decision D20 (log 65). The semantics of the carried-over instructions are the
spec's from general knowledge (log 60). Addresses wrap by D17 (log 63). That a double operand may stand at any
address is D18 (log 32). No turn of another agent falls inside (log 33). -/
def Obligations.Loads : Prop :=
  ∀ (o : Operand) (s : State) (ea : Addr) (w : Word), s.inside = [] →
    effectiveAddress .double o s = .ok ea → s.load ea = some w →
    exec (.cla o) s = .next { s with ac := Acc.make (signOf w) false false (magnitude w) } ∧
    exec (.cal o) s = .next { s with ac := Acc.make false false (signOf w) (magnitude w) } ∧
    exec (.cls o) s = .next { s with ac := Acc.make (!signOf w) false false (magnitude w) } ∧
    exec (.lla o) s = .next { s with ac := Acc.make false false false ((leftHalf w).setWidth 35) } ∧
    exec (.lra o) s = .next { s with ac := Acc.make false false false ((rightHalf w).setWidth 35) } ∧
    exec (.ldq o) s = .next { s with mq := w } ∧
    exec (.ldi o) s = .next { s with si := w } ∧
    exec (.laci o) s =
      .next { s with ac := Acc.make false false (signOf w && signOf s.si) (magnitude w &&& magnitude s.si) } ∧
    ∀ w1 : Word, s.load (ea + 1) = some w1 →
      exec (.dla o) s = .next { s with ac := Acc.make (signOf w) false false (magnitude w), mq := w1 } ∧
      exec (.dlld o) s = .next { s with ac := Acc.make false false (signOf w) (magnitude w), mq := w1 } ∧
      exec (.dldn o) s =
        .next { s with
          ac := Acc.make (!signOf w) false false (magnitude w), mq := signed (!signOf w) (magnitude w1) }

/-- The instructions that store one or two whole words change those words and nothing else. R150, R151, R154, R155,
R157-R160, R382, R405. The semantics of the carried-over instructions are the spec's from general knowledge (log
60). Addresses wrap by D17 (log 63); the order of two stores is D9 (log 31). That a double operand may stand at
any address is D18 (log 32). No turn of another agent falls inside (log 33). -/
def Obligations.WordStores : Prop :=
  ∀ (o : Operand) (s : State) (ea : Addr), s.inside = [] →
    effectiveAddress .double o s = .ok ea → s.violates ea = false →
    (∀ p ∈ [(Instr.sto o, signed s.ac.s s.ac.mag), (.slw o, signed s.ac.p s.ac.mag),
        (.stan o, signed (!s.ac.s) s.ac.mag), (.stq o, s.mq), (.stz o, 0), (.sti o, s.si),
        (.saci o, signed s.ac.p s.ac.mag &&& s.si)],
      ∃ t, exec p.1 s = .next t ∧ OnlyStorage s t ∧ Stored s t ea [p.2]) ∧
    (s.violates (ea + 1) = false →
      ∀ p ∈ [(Instr.dst o, signed s.ac.s s.ac.mag, s.mq), (.dlsf o, signed s.ac.p s.ac.mag, s.mq),
          (.dstn o, signed (!s.ac.s) s.ac.mag, signed (!s.ac.s) (magnitude s.mq))],
        ∃ t, exec p.1 s = .next t ∧ OnlyStorage s t ∧ Stored s t ea [p.2.1, p.2.2])

/-- Half-word stores and storage updates change their field of one word and nothing else. R152, R153, R156, R161,
R310-R313, R362, R364, R366, R372, R387, R406. ADOS on a minus word is decision D23 (log 24), the field of STL
D56 (log 66). Tag zero is D1 (log 21). The semantics of the carried-over instructions are the spec's from
general knowledge (log 60). Addresses, PC and Y + 1 among them, wrap by D17 (log 63). The single-indexed reading
of SXA, SXD, SCA and SCD is D6 (log 83). No turn of another agent falls inside (log 33). -/
def Obligations.FieldStores : Prop :=
  ∀ (o : Operand) (s : State) (ea : Addr) (w : Word), s.inside = [] → s.load ea = some w → s.violates ea = false →
    (effectiveAddress .double o s = .ok ea →
      ∀ p ∈ [(Instr.stal o, joinHalves (rightHalf s.ac.logical) (rightHalf w)),
          (.star o, joinHalves (leftHalf w) (rightHalf s.ac.logical)),
          (.slq o, joinHalves (leftHalf s.mq) (rightHalf w)),
          (.stl o, joinHalves (leftHalf w) (s.il + 1)),
          (.ors o, w ||| s.ac.logical), (.ans o, w &&& s.ac.logical), (.ers o, w ^^^ s.ac.logical),
          (.ois o, w ||| s.si), (.lasi o, (w &&& ~~~s.si) ||| (s.ac.logical &&& s.si)),
          (.ados o,
            if signOf w = false then signed false (magnitude w + 1)
            else if magnitude w = 0 then signed false 1
            else signed true (magnitude w - 1))],
        ∃ t, exec p.1 s = .next t ∧ OnlyStorage s t ∧ Stored s t ea [p.2]) ∧
    (effectiveAddress .single o s = .ok ea →
      ∀ p ∈ [(Instr.sxa o, joinHalves (leftHalf w) (s.x o.t1.toNat)),
          (.sxd o, joinHalves (s.x o.t1.toNat) (rightHalf w)),
          (.sca o, joinHalves (leftHalf w) (0 - s.x o.t1.toNat)),
          (.scd o, joinHalves (0 - s.x o.t1.toNat) (rightHalf w))],
        ∃ t, exec p.1 s = .next t ∧ OnlyStorage s t ∧ Stored s t ea [p.2])

/-- Every storing instruction traps on its first violating word, which is not stored; the words before it are. R73,
R85, R505, R281, R165, R340. That the violating word is not stored and that the words before it stay is decision
D9 of the spec (log 31); the first word of a block is the case n = 0. No turn of another agent falls inside the
instruction (log 33; TurnsBetweenAccesses). Count zero is D28 (log 28). The places of SCPU's indicators, in the
words stored before a violation, are the default SCPU_LAYOUT, D5 (log 8). What a trap's entry saves is
TrapEntry's, with the choices named there (logs 6, 12, 31, 57). Addresses, PC and Y + 1 among them, wrap by D17
(log 63). Tag zero in the blocks is D1 (log 21); the words stored before a violation are those of R157-R159,
R165 and R340, carried-over semantics among them from general knowledge, PRESUMED (log 60). That the second word
of DST, DLSF and DSTN can be the first to violate needs an odd effective address, the last of its 256 words: no
alignment, D18 (log 32). Nor do blocks need any. The single-indexed reading of SXA, SXD, SCA, SCD, SCPU and SMX
is D6 (log 83), that SCPU is legal in Problem Program Mode D33 (log 56). -/
def Obligations.StoresTrapOutsideBounds : Prop :=
  ∀ (o : Operand) (s : State) (ea : Addr), s.inside = [] →
    (effectiveAddress .double o s = .ok ea → s.violates ea = true →
      (∀ i ∈ [Instr.sto o, .slw o, .stan o, .stq o, .stz o, .sti o, .saci o, .dst o, .dlsf o, .dstn o],
        exec i s = .next (takeTrap .protectViolation s)) ∧
      ∀ w, s.load ea = some w →
        ∀ i ∈ [Instr.stal o, .star o, .slq o, .stl o, .ors o, .ans o, .ers o, .ois o, .lasi o, .ados o, .tsl o],
          exec i s = .next (takeTrap .protectViolation s)) ∧
    (effectiveAddress .double o s = .ok ea → s.violates ea = false → s.violates (ea + 1) = true →
      ∀ p ∈ [(Instr.dst o, signed s.ac.s s.ac.mag), (.dlsf o, signed s.ac.p s.ac.mag),
          (.dstn o, signed (!s.ac.s) s.ac.mag)],
        exec p.1 s = .next (takeTrap .protectViolation (s.poke ea p.2))) ∧
    (effectiveAddress .single o s = .ok ea →
      (s.violates ea = true → ∀ w, s.load ea = some w →
        ∀ i ∈ [Instr.sxa o, .sxd o, .sca o, .scd o], exec i s = .next (takeTrap .protectViolation s)) ∧
      ∀ n : Nat, (∀ k, k < n → s.violates (ea + BitVec.ofNat 18 k) = false) →
        s.violates (ea + BitVec.ofNat 18 n) = true →
        (n < 2 + o.t1.toNat / 2 →
          ∃ (u : State) (h : Addr), exec (.scpu o) s = .next (takeTrap .protectViolation u) ∧ OnlyStorage s u ∧
            IndicatorHalf s h ∧ Stored s u ea ((scpuBlock s o.t1.toNat h).take n)) ∧
        ∀ w, s.load ea = some w → o.t1 ≠ 0 → n < 1 + o.t1.toNat / 2 →
          ∃ u, exec (.smx o) s = .next (takeTrap .protectViolation u) ∧ OnlyStorage s u ∧
            Stored s u ea ((smxBlock s o.t1.toNat w).take n))

/-- SCPU and SMX store their whole block and nothing else. R165, R340; the places of the indicators are the default
SCPU_LAYOUT (log 8), count zero is D28 (log 28). Tag zero is D1 (log 21), wrapping addresses are D17 (log 63).
The single-indexed reading is D6 (log 83). A block may start at any address, D18 (log 32). That SCPU is legal in
Problem Program Mode is D33 (log 56). No turn of another agent falls inside (log 33). -/
def Obligations.BlockStores : Prop :=
  ∀ (o : Operand) (s : State) (ea : Addr), s.inside = [] → effectiveAddress .single o s = .ok ea →
    ((∀ k, k < 2 + o.t1.toNat / 2 → s.violates (ea + BitVec.ofNat 18 k) = false) →
      ∃ (t : State) (h : Addr), exec (.scpu o) s = .next t ∧ OnlyStorage s t ∧ IndicatorHalf s h ∧
        Stored s t ea (scpuBlock s o.t1.toNat h)) ∧
    (o.t1 = 0 → exec (.smx o) s = .next s) ∧
    ∀ w : Word, o.t1 ≠ 0 → s.load ea = some w →
      (∀ k, k < 1 + o.t1.toNat / 2 → s.violates (ea + BitVec.ofNat 18 k) = false) →
      ∃ t, exec (.smx o) s = .next t ∧ OnlyStorage s t ∧ Stored s t ea (smxBlock s o.t1.toNat w)

/-- RCPU and LMX load their whole block and nothing else. R166, R341; the places of the indicators are the default
SCPU_LAYOUT (log 8), count zero is D28 (log 28). Wrapping addresses are D17 (log 63). Tag zero is D1 (log 21).
The single-indexed reading is D6 (log 83). A block may start at any address, D18 (log 32). That RCPU is legal in
Problem Program Mode is D33 (log 56). No turn of another agent falls inside (log 33). -/
def Obligations.BlockLoads : Prop :=
  ∀ (o : Operand) (s : State) (ea : Addr), s.inside = [] → effectiveAddress .single o s = .ok ea →
    (∀ (w0 w1 : Word) (pairs : List Word), pairs.length = o.t1.toNat / 2 → Holds s ea (w0 :: w1 :: pairs) →
      ∃ t, exec (.rcpu o) s = .next t ∧
        t = { s with ac := t.ac, ov := t.ov, ixh := t.ixh, ixl := t.ixl, ixe := t.ixe, xr := t.xr } ∧
        t.ac.s = signOf w0 ∧ t.ac.mag = magnitude w0 ∧
        t.ov = halfPosition (leftHalf w1) 0 ∧ t.ac.p = halfPosition (leftHalf w1) 1 ∧
        t.ac.q = halfPosition (leftHalf w1) 2 ∧ t.ixh = halfPosition (leftHalf w1) 3 ∧
        t.ixl = halfPosition (leftHalf w1) 4 ∧ t.ixe = halfPosition (leftHalf w1) 5 ∧
        ∀ j, 1 ≤ j → j ≤ 15 → t.x j = if j ≤ o.t1.toNat then halfFor j w1 pairs else s.x j) ∧
    (o.t1 = 0 → exec (.lmx o) s = .next s) ∧
    ∀ (w : Word) (pairs : List Word), o.t1 ≠ 0 → pairs.length = o.t1.toNat / 2 → Holds s ea (w :: pairs) →
      ∃ t, exec (.lmx o) s = .next t ∧ t = { s with xr := t.xr } ∧
        ∀ j, 1 ≤ j → j ≤ 15 → t.x j = if j ≤ o.t1.toNat then halfFor j w pairs else s.x j

/-- ADD, ADM, SUB, SBM, RND and ACL: sum, sign and overflow. R180-R185, R190: the carried-over semantics are the
spec's from general knowledge (log 60). No turn of another agent falls inside (log 33). -/
def Obligations.Additions : Prop :=
  ∀ (o : Operand) (s : State) (ea : Addr), s.inside = [] → effectiveAddress .double o s = .ok ea →
    (∀ w p,
      (s.load ea = some w ∧
          p ∈ ([(.add o, signOf w, magnitude w), (.adm o, false, magnitude w), (.sub o, !signOf w, magnitude w),
            (.sbm o, true, magnitude w)] : List (Instr × Bool × BitVec 35))) ∨
        (position s.mq 1 = true ∧ p = (.rnd o, s.ac.s, 1)) →
      ∃ t, exec p.1 s = .next t ∧ t = { s with ac := t.ac, ov := t.ov } ∧
        (s.ac.s = p.2.1 →
          t.ac.s = s.ac.s ∧ t.ac.m.toNat = (s.ac.m.toNat + p.2.2.toNat) % 2 ^ 37 ∧
            (t.ov = true ↔ s.ov = true ∨ t.ac.p ≠ s.ac.p)) ∧
        (s.ac.s ≠ p.2.1 →
          t.ov = s.ov ∧
            (p.2.2.toNat ≤ s.ac.m.toNat → t.ac.s = s.ac.s ∧ t.ac.m.toNat = s.ac.m.toNat - p.2.2.toNat) ∧
            (s.ac.m.toNat < p.2.2.toNat → t.ac.s = p.2.1 ∧ t.ac.m.toNat = p.2.2.toNat - s.ac.m.toNat))) ∧
    (position s.mq 1 = false → exec (.rnd o) s = .next s) ∧
    ∀ w : Word, s.load ea = some w →
      ∃ t, exec (.acl o) s = .next t ∧ t = { s with ac := t.ac } ∧ t.ac.s = s.ac.s ∧ t.ac.q = s.ac.q ∧
        t.ac.logical.toNat =
          if s.ac.logical.toNat + w.toNat < 2 ^ 36 then s.ac.logical.toNat + w.toNat
          else s.ac.logical.toNat + w.toNat - 2 ^ 36 + 1

/-- MPY, MPR and IMP develop the exact product. R186, R187, R188. MQ after an IMP that fits is a free value (log
15); nothing is said of it. That IMP's sign is the exclusive or of the signs, a zero product's included, and
that on an overflow MQ takes the product's sign with its high part, are D21 of the spec (R188, log 86). IMP with
Q or P one is refused, D21 too (log 62), and left to RefusedInstructions. The semantics of the carried-over
instructions are the spec's from general knowledge (log 60). No turn of another agent falls inside (log 33). -/
def Obligations.Multiplication : Prop :=
  ∀ (o : Operand) (s : State) (ea : Addr) (w : Word), s.inside = [] →
    effectiveAddress .double o s = .ok ea → s.load ea = some w →
    (∃ t, exec (.mpy o) s = .next t ∧ t = { s with ac := t.ac, mq := t.mq } ∧
      t.ac.s = (signOf s.mq != signOf w) ∧ signOf t.mq = (signOf s.mq != signOf w) ∧
      t.ac.q = false ∧ t.ac.p = false ∧
      t.ac.mag.toNat * 2 ^ 35 + (magnitude t.mq).toNat = (magnitude s.mq).toNat * (magnitude w).toNat) ∧
    (∃ t, exec (.mpr o) s = .next t ∧ t = { s with ac := t.ac, mq := t.mq } ∧
      t.ac.s = (signOf s.mq != signOf w) ∧ signOf t.mq = (signOf s.mq != signOf w) ∧
      t.ac.q = false ∧ t.ac.p = false ∧
      (magnitude t.mq).toNat = (magnitude s.mq).toNat * (magnitude w).toNat % 2 ^ 35 ∧
      t.ac.mag.toNat = ((magnitude s.mq).toNat * (magnitude w).toNat + 2 ^ 34) / 2 ^ 35) ∧
    (s.ac.q = false → s.ac.p = false →
      ∃ t, exec (.imp o) s = .next t ∧ t = { s with ac := t.ac, ov := t.ov, mq := t.mq } ∧
        t.ac.s = (s.ac.s != signOf w) ∧ t.ac.q = false ∧ t.ac.p = false ∧
        t.ac.mag.toNat = s.ac.mag.toNat * (magnitude w).toNat % 2 ^ 35 ∧
        (t.ov = true ↔ s.ov = true ∨ 2 ^ 35 ≤ s.ac.mag.toNat * (magnitude w).toNat) ∧
        (2 ^ 35 ≤ s.ac.mag.toNat * (magnitude w).toNat →
          signOf t.mq = (s.ac.s != signOf w) ∧
            (magnitude t.mq).toNat = s.ac.mag.toNat * (magnitude w).toNat / 2 ^ 35))

/-- VLM multiplies by the low bits of MQ, VDT develops as many quotient bits as its count. R189, R193, by the steps
they describe; that the count is the T1 field, and that count zero does nothing, are D39 of the spec (log 82).
The semantics of the carried-over instructions are the spec's from general knowledge (log 60). The
single-indexed reading is D6 (log 83). No turn of another agent falls inside (log 33). -/
def Obligations.VariableMultiplyAndDivide : Prop :=
  ∀ (o : Operand) (s : State) (ea : Addr), s.inside = [] → effectiveAddress .single o s = .ok ea →
    ((o.t1 = 0 → exec (.vlm o) s = .next s) ∧
      ∀ w : Word, o.t1 ≠ 0 → s.load ea = some w →
        ∃ t, exec (.vlm o) s = .next t ∧ t = { s with ac := t.ac, mq := t.mq } ∧
          t.ac.s = (signOf s.mq != signOf w) ∧ signOf t.mq = (signOf s.mq != signOf w) ∧
          t.ac.m.toNat * 2 ^ 35 + (magnitude t.mq).toNat =
            if (magnitude w).toNat = 0 ∨ (magnitude s.mq).toNat = 0 then 0
            else
              (magnitude w).toNat * ((magnitude s.mq).toNat % 2 ^ o.t1.toNat) * 2 ^ (35 - o.t1.toNat) +
                (magnitude s.mq).toNat / 2 ^ o.t1.toNat) ∧
    ((o.t1 = 0 → exec (.vdt o) s = .next s) ∧
      ∀ w : Word, o.t1 ≠ 0 → s.load ea = some w → s.ac.m.toNat < (magnitude w).toNat →
        ∃ (t : State) (q : Nat), exec (.vdt o) s = .next t ∧ t = { s with ac := t.ac, mq := t.mq } ∧
          t.ac.s = s.ac.s ∧ signOf t.mq = (s.ac.s != signOf w) ∧ q < 2 ^ o.t1.toNat ∧
          (magnitude t.mq).toNat = (magnitude s.mq).toNat * 2 ^ o.t1.toNat % 2 ^ 35 + q ∧
          t.ac.m.toNat < (magnitude w).toNat ∧
          q * (magnitude w).toNat + t.ac.m.toNat =
            s.ac.m.toNat * 2 ^ o.t1.toNat + (magnitude s.mq).toNat / 2 ^ (35 - o.t1.toNat))

/-- DVT and IDV divide exactly. R191, R192. That IDV is refused with Q or P one is D22 of the spec (log 62). The
semantics of the carried-over instructions are the spec's from general knowledge (log 60). No turn of another
agent falls inside (log 33). -/
def Obligations.Division : Prop :=
  ∀ (o : Operand) (s : State) (ea : Addr) (w : Word), s.inside = [] →
    effectiveAddress .double o s = .ok ea → s.load ea = some w →
    (s.ac.m.toNat < (magnitude w).toNat →
      ∃ t, exec (.dvt o) s = .next t ∧ t = { s with ac := t.ac, mq := t.mq } ∧
        t.ac.s = s.ac.s ∧ signOf t.mq = (s.ac.s != signOf w) ∧ t.ac.m.toNat < (magnitude w).toNat ∧
        (magnitude t.mq).toNat * (magnitude w).toNat + t.ac.m.toNat =
          s.ac.m.toNat * 2 ^ 35 + (magnitude s.mq).toNat) ∧
    (s.ac.q = false → s.ac.p = false → magnitude w ≠ 0 →
      ∃ t, exec (.idv o) s = .next t ∧ t = { s with ac := t.ac, mq := t.mq } ∧
        t.ac.s = (s.ac.s != signOf w) ∧ t.ac.q = false ∧ t.ac.p = false ∧ signOf t.mq = s.ac.s ∧
        (magnitude t.mq).toNat < (magnitude w).toNat ∧
        t.ac.mag.toNat * (magnitude w).toNat + (magnitude t.mq).toNat = s.ac.mag.toNat)

/-- The divides trap on a divide check with the registers as they were. R194, R504. That AC and MQ keep their
contents is D22 (log 67); that FDH, the code +120, is a second encoding of FDT and traps exactly as FDT is D40,
the spec's own reading (R215, log 80); the refusal of IDV and FRD with Q or P one is D22 and D57 (log 62), VDT
of count zero D39 (log 82); the single-precision divide is the reference of log 13. What a trap's entry saves is
TrapEntry's, with the choices named there (logs 6, 12, 31, 57). That DVT and VDT check when the divisor is not
above the accumulator's magnitude, and IDV at zero, is R191-R193, general knowledge for the carried-over two,
PRESUMED (log 60). The single-indexed reading of VDT is D6 (log 83). No turn of another agent falls inside (log
33). -/
def Obligations.DivideChecksTrap : Prop :=
  ∀ (o : Operand) (s : State) (ea : Addr) (w : Word), s.inside = [] → s.load ea = some w →
    (effectiveAddress .double o s = .ok ea →
      ((magnitude w).toNat ≤ s.ac.m.toNat → exec (.dvt o) s = .next (takeTrap .divideCheck s)) ∧
      (s.ac.q = false → s.ac.p = false → magnitude w = 0 →
        exec (.idv o) s = .next (takeTrap .divideCheck s)) ∧
      ((Config.numerics.fdiv s.ac w).divCheck = true →
        exec (.fdt o) s = .next (takeTrap .divideCheck s) ∧
          exec (.fdh o) s = .next (takeTrap .divideCheck s)) ∧
      (s.ac.q = false → s.ac.p = false → (Config.numerics.fdiv (Acc.ofSigned w) s.ac.signedWord).divCheck = true →
        exec (.frd o) s = .next (takeTrap .divideCheck s))) ∧
    (effectiveAddress .single o s = .ok ea → o.t1 ≠ 0 → (magnitude w).toNat ≤ s.ac.m.toNat →
      exec (.vdt o) s = .next (takeTrap .divideCheck s))

/-- The single-precision floating-point instructions without a spill. R202-R216, over the reference functions of
R231-R233 (PRESUMED, log 13), whose content FloatingContent states. The sign of FRD's MQ is R216's (log 59);
that OV stays is R203's, not R29's (log 79). FDH as a second encoding of FDT is D40, the spec's own reading
(R215, log 80); FRD with Q or P one is refused by D57 (log 62). The semantics of the carried-over instructions
are the spec's from general knowledge (log 60). NUMERICS as a record of functions is D38 (log 13). No turn of
another agent falls inside (log 33). -/
def Obligations.SingleFloatingCompletes : Prop :=
  ∀ (o : Operand) (s : State) (ea : Addr), s.inside = [] → effectiveAddress .double o s = .ok ea →
    (spillAny (Config.numerics.fround s.ac s.mq).2 = false →
      exec (.frn o) s = .next { s with ac := (Config.numerics.fround s.ac s.mq).1 }) ∧
    ∀ w : Word, s.load ea = some w →
      (∀ p ∈ singleFloating o s w, p.2.divCheck = false → spillAny p.2.sp = false →
        exec p.1 s = .next { s with ac := p.2.ac, mq := p.2.mq }) ∧
      ∀ r : FpResult, r = Config.numerics.fdiv (Acc.ofSigned w) s.ac.signedWord → s.ac.q = false → s.ac.p = false →
        r.divCheck = false → spillAny r.sp = false →
        exec (.frd o) s = .next { s with ac := Acc.ofSigned r.mq, mq := signed (signOf w) r.ac.mag }

/-- The double-precision floating-point instructions: registers, spill trap, divide check. R202, R218-R229, R503,
R504: the functions are open (log 14), so no state is known to spill or not, and all outcomes stand in one
clause; SI afterwards is free (log 16), DFSB, DFSM and DUFS, DUSM change the sign of both words (log 58). That a
divide check leaves AC and MQ is D22 (log 67); Q and P of DFRD, and its quotient in AC and MQ without a
remainder, are D57 (log 62). That the result registers are written before the spill trap is D38 (log 13), that
the operand may stand at any address D18 (log 32), that its second address wraps D17 (log 63). What a trap's
entry saves is TrapEntry's, with the choices named there (logs 6, 12, 31, 57). The semantics of the carried-over
instructions are the spec's from general knowledge (log 60). No turn of another agent falls inside (log 33). -/
def Obligations.DoubleFloatingOutcomes : Prop :=
  ∀ (o : Operand) (s : State) (ea : Addr) (w0 w1 : Word), s.inside = [] →
    effectiveAddress .double o s = .ok ea → s.load ea = some w0 → s.load (ea + 1) = some w1 →
    (∀ p ∈ doubleFloating o s w0 w1, ∀ u : State, u = { s with ac := p.2.ac, mq := p.2.mq } →
      exec p.1 s =
        .next (if spillAny p.2.sp then takeTrap (.floatingPoint p.1 p.2.sp) u else u)) ∧
    ∀ p ∈ doubleProducts o s w0 w1,
      ∃ i : Word, ∀ u : State, u = { s with ac := p.2.ac, mq := p.2.mq, si := i } →
        exec p.1 s =
          .next (if (p.1 = .dfdt o ∨ p.1 = .dfrd o) ∧ p.2.divCheck = true then
              takeTrap .divideCheck { s with si := i }
            else if spillAny p.2.sp then takeTrap (.floatingPoint p.1 p.2.sp) u
            else u)

/-- A single-precision floating-point spill traps with the result registers written; so does FIX out of range. R202,
R503, R422. Which results spill is the reference record's, PRESUMED (log 13); that FIX traps at exactly 2^35,
where the source says greater than 2^35, and that it reports an AC overflow, are D25 and PRESUMED (log 19). The
spill word stored is open, and FRN is named with its address formed (log 12); AC and MQ after FIX traps are free
(log 17); the exchange of FRD's report is log 59. FDH as a second encoding of FDT is D40, the spec's own reading
(R215, log 80); that the registers are written before the trap is D38 (log 13); FRD with Q or P one is refused
by D57 (log 62). What a trap's entry saves is TrapEntry's, with the choices named there (logs 6, 12, 31, 57).
The semantics of the carried-over instructions are the spec's from general knowledge (log 60). No turn of
another agent falls inside (log 33). -/
def Obligations.SpillsTrap : Prop :=
  ∀ (o : Operand) (s : State) (ea : Addr), s.inside = [] → effectiveAddress .double o s = .ok ea →
    (spillAny (Config.numerics.fround s.ac s.mq).2 = true →
      exec (.frn o) s =
        .next (takeTrap
          (.floatingPoint (.frn { f := false, t1 := 0, t2 := 0, y := ea }) (Config.numerics.fround s.ac s.mq).2)
          { s with ac := (Config.numerics.fround s.ac s.mq).1 })) ∧
    ∀ w : Word, s.load ea = some w →
      (∀ p ∈ singleFloating o s w, p.2.divCheck = false → spillAny p.2.sp = true →
        exec p.1 s = .next (takeTrap (.floatingPoint p.1 p.2.sp) { s with ac := p.2.ac, mq := p.2.mq })) ∧
      (∀ r : FpResult, r = Config.numerics.fdiv (Acc.ofSigned w) s.ac.signedWord → s.ac.q = false → s.ac.p = false →
        r.divCheck = false → spillAny r.sp = true →
        exec (.frd o) s =
          .next (takeTrap
            (.floatingPoint (.frd o) ⟨r.sp.mqOverflow, r.sp.mqUnderflow, r.sp.acOverflow, r.sp.acUnderflow⟩)
            { s with ac := Acc.ofSigned r.mq, mq := signed (signOf w) r.ac.mag })) ∧
      (2 ^ 35 * 2 ^ 155 ≤ scaledValue w →
        ∃ (a : Acc) (q : Word),
          exec (.fix o) s = .next (takeTrap (.floatingPoint (.fix o) acOverSpill) { s with ac := a, mq := q }))

/-- What the single-precision reference functions compute: sums, products, rounding, quotients. R200, R201,
R231-R233, and R213 for the rounding. The record is the spec's from general knowledge and the default the model
takes: PRESUMED, log 13. NUMERICS as a record of functions is D38. -/
def Obligations.FloatingContent : Prop :=
  (∀ (ac : Acc) (y : Word) (norm : Bool) (lo hi : Unpacked) (g : Nat) (v : Int) (r : FpResult),
      (if (unpackWord y).ch < (unpackAcc ac).ch then
        lo = unpackWord y ∧
          hi = { unpackAcc ac with s := ac.s || ac.p, ch := (unpackAcc ac).ch % 256 }
       else lo = unpackAcc ac ∧ hi = unpackWord y) →
      g = (if 0 ≤ hi.ch - lo.ch ∧ hi.ch - lo.ch ≤ 63 then lo.fr * 2 ^ 27 / 2 ^ (hi.ch - lo.ch).toNat else 0) →
      v = algebraic lo.s g + algebraic hi.s (hi.fr * 2 ^ 27) → r = Config.numerics.fadd ac y norm →
      r.divCheck = false ∧ signOf r.mq = r.ac.s ∧ r.ac.s = (if v = 0 then lo.s else decide (v < 0)) ∧
      (norm = true → v = 0 → Packed r 0 0 0) ∧
      (norm = false ∨ v ≠ 0 →
        ∃ (k f : Nat) (c : Int), Packed r c (c - 27) f ∧ (norm = true → 2 ^ 53 ≤ f) ∧ (norm = false → k = 0) ∧
          if v.natAbs < 2 ^ 54 then f = v.natAbs * 2 ^ k ∧ c = hi.ch - k
          else f = v.natAbs / 2 ∧ c = hi.ch + 1)) ∧
    (∀ (mq y : Word) (norm : Bool) (p : Nat) (c : Int) (r : FpResult),
      p = (unpackWord mq).fr * (unpackWord y).fr → c = (unpackWord mq).ch + (unpackWord y).ch - 128 →
      r = Config.numerics.fmul mq y norm →
      r.divCheck = false ∧ r.ac.s = (signOf mq != signOf y) ∧ signOf r.mq = r.ac.s ∧
      if magnitude y = 0 then Packed r 0 0 0
      else if norm = false ∨ 2 ^ 53 ≤ p then Packed r c (c - 27) p
      else if 2 ^ 26 ≤ p then Packed r (c - 1) (c - 28) (2 * p)
      else Packed r 0 0 (2 * p)) ∧
    (∀ (ac : Acc) (mq : Word),
      (position mq 9 = false → Config.numerics.fround ac mq = (ac, noSpill)) ∧
      (position mq 9 = true →
        (Config.numerics.fround ac mq).1.s = ac.s ∧
        if ac.m.toNat % 2 ^ 27 = 2 ^ 27 - 1 then
          (Config.numerics.fround ac mq).1.m.toNat = (ac.m.toNat / 2 ^ 27 + 1) % 2 ^ 10 * 2 ^ 27 + 2 ^ 26 ∧
            (Config.numerics.fround ac mq).2 = if 255 < ac.m.toNat / 2 ^ 27 + 1 then acOverSpill else noSpill
        else
          (Config.numerics.fround ac mq).1.m.toNat = ac.m.toNat + 1 ∧
            (Config.numerics.fround ac mq).2 = if 255 < ac.m.toNat / 2 ^ 27 then acOverSpill else noSpill)) ∧
    ∀ (n : Acc) (d : Word) (un ud : Unpacked) (r : FpResult), un = unpackAcc n → ud = unpackWord d →
      r = Config.numerics.fdiv n d →
      (r.divCheck = true ↔ 2 * ud.fr ≤ un.fr) ∧
      (r.divCheck = false → un.fr = 0 →
        r.ac.m = 0 ∧ r.mq = signed (n.s != signOf d) 0 ∧ r.sp = noSpill) ∧
      (r.divCheck = false → un.fr ≠ 0 →
        ∀ c : Int, c = (if ud.fr ≤ un.fr then un.ch % 256 + 1 else un.ch % 256) →
          (unpackWord r.mq).fr * ud.fr + (unpackAcc r.ac).fr = un.fr * 2 ^ (if ud.fr ≤ un.fr then 26 else 27) ∧
          (unpackAcc r.ac).fr < ud.fr ∧ r.ac.s = n.s ∧ signOf r.mq = (n.s != signOf d) ∧
          (unpackAcc r.ac).ch = (c - 27) % 1024 ∧ (unpackWord r.mq).ch = (c - ud.ch + 128) % 256 ∧
          r.sp.acOverflow = false ∧ (r.sp.acUnderflow = true ↔ c - 27 < 0) ∧
          (r.sp.mqOverflow = true ↔ 255 < c - ud.ch + 128) ∧ (r.sp.mqUnderflow = true ↔ c - ud.ch + 128 < 0))

/-- ADXP adds the nine low address bits, signed, to P and positions 1-8. R217; the reading of the nine bits is D24
of the spec (log 23). What a trap's entry saves is TrapEntry's, with the choices named there (logs 6, 12, 31,
57). That AC is written before the trap is D38 (log 13). No turn of another agent falls inside (log 33). -/
def Obligations.AddToExponent : Prop :=
  ∀ (o : Operand) (s : State) (ea : Addr), s.inside = [] → effectiveAddress .double o s = .ok ea →
    ∃ a : Acc, a.s = s.ac.s ∧ a.q = s.ac.q ∧ a.m.toNat % 2 ^ 27 = s.ac.m.toNat % 2 ^ 27 ∧
      ∀ r : Int,
        r = ((s.ac.m.toNat / 2 ^ 27 % 2 ^ 9 : Nat) : Int) +
          (if ea.toNat % 2 ^ 9 < 2 ^ 8 then ((ea.toNat % 2 ^ 9 : Nat) : Int)
            else ((ea.toNat % 2 ^ 9 : Nat) : Int) - 2 ^ 9) →
        ((a.m.toNat / 2 ^ 27 % 2 ^ 9 : Nat) : Int) = r % 2 ^ 9 ∧
        (0 ≤ r → r ≤ 255 → exec (.adxp o) s = .next { s with ac := a }) ∧
        (255 < r → exec (.adxp o) s =
          .next (takeTrap (.floatingPoint (.adxp o) acOverSpill) { s with ac := a })) ∧
        (r < 0 → exec (.adxp o) s =
          .next (takeTrap (.floatingPoint (.adxp o) acUnderSpill) { s with ac := a }))

/-- ALS, ARS, LLS, LRS, LGL, LGR and RQL as arithmetic on the joined registers. R240-R247; the count modulo 256 is
D19 of the spec (log 22), the semantics from general knowledge (log 60). No turn of another agent falls inside
(log 33). -/
def Obligations.Shifts : Prop :=
  ∀ (o : Operand) (s : State) (ea : Addr) (n : Nat), s.inside = [] →
    effectiveAddress .double o s = .ok ea → n = ea.toNat % 256 →
    (∃ t, exec (.als o) s = .next t ∧ t = { s with ac := t.ac, ov := t.ov } ∧ t.ac.s = s.ac.s ∧
      t.ac.m.toNat = s.ac.m.toNat * 2 ^ n % 2 ^ 37 ∧
      (t.ov = true ↔ s.ov = true ∨ 2 ^ 35 ≤ s.ac.m.toNat % 2 ^ 35 * 2 ^ n)) ∧
    (∃ t, exec (.ars o) s = .next t ∧ t = { s with ac := t.ac } ∧ t.ac.s = s.ac.s ∧
      t.ac.m.toNat = s.ac.m.toNat / 2 ^ n) ∧
    (∀ v, v = s.ac.m.toNat * 2 ^ 35 + (magnitude s.mq).toNat →
      (∃ t, exec (.lls o) s = .next t ∧ t = { s with ac := t.ac, mq := t.mq, ov := t.ov } ∧
        t.ac.s = signOf s.mq ∧ signOf t.mq = signOf s.mq ∧
        t.ac.m.toNat * 2 ^ 35 + (magnitude t.mq).toNat = v * 2 ^ n % 2 ^ 72 ∧
        (t.ov = true ↔ s.ov = true ∨ 2 ^ 70 ≤ v % 2 ^ 70 * 2 ^ n)) ∧
      ∃ t, exec (.lrs o) s = .next t ∧ t = { s with ac := t.ac, mq := t.mq } ∧
        t.ac.s = s.ac.s ∧ signOf t.mq = s.ac.s ∧
        t.ac.m.toNat * 2 ^ 35 + (magnitude t.mq).toNat = v / 2 ^ n) ∧
    (∀ v, v = s.ac.m.toNat * 2 ^ 36 + s.mq.toNat →
      (∃ t, exec (.lgl o) s = .next t ∧ t = { s with ac := t.ac, mq := t.mq, ov := t.ov } ∧
        t.ac.s = s.ac.s ∧ t.ac.m.toNat * 2 ^ 36 + t.mq.toNat = v * 2 ^ n % 2 ^ 73 ∧
        (t.ov = true ↔ s.ov = true ∨ 2 ^ 71 ≤ v % 2 ^ 71 * 2 ^ n)) ∧
      ∃ t, exec (.lgr o) s = .next t ∧ t = { s with ac := t.ac, mq := t.mq } ∧
        t.ac.s = s.ac.s ∧ t.ac.m.toNat * 2 ^ 36 + t.mq.toNat = v / 2 ^ n) ∧
    ∃ t, exec (.rql o) s = .next t ∧ t = { s with mq := t.mq } ∧
      ∀ p, p < 36 → position t.mq p = position s.mq ((p + n) % 36)

/-- The conditional transfers go to the effective address exactly when their condition holds. R252, R258-R267, R270,
R271, R327-R332. That TLQ puts minus zero below plus zero is D44 of the spec (log 64). That "C(AC) is zero"
means Q, P and 1-35 all zero, as TZE, TNZ, TZM, TZP, TGZ and TLZ test it, is D30 of the spec (R260, R267, log
63). The semantics of the carried-over instructions are the spec's from general knowledge (log 60). No turn of
another agent falls inside (log 33). -/
def Obligations.PlainTransfersComplete : Prop :=
  ∀ (o : Operand) (s : State) (ea : Addr), s.inside = [] → effectiveAddress .double o s = .ok ea →
    exec (.ttr o) s = .next { s with pc := ea } ∧
    (s.ttrap = false →
      ∀ p ∈ plainTransfers o s, exec p.1 s = .next (if p.2 then { s with pc := ea } else s))

/-- The transfers that do more than transfer: TOV, TNO, HTR, TSL, TSX, TXF, XLF, XLB. R252, R257, R268, R269, R281,
R325, R326, R338, R339. That XLF and XLB both add XR2, compare unsigned and take XR1 after the write is D29 of
the spec (log 27). That HTR halts and transfers in one step is D37 (R257, log 35), that it is legal in Problem
Program Mode D33 (log 56), that TSL stores a right half word the reading C14 (log 66), that TXF, XLF and XLB
leave the compare indicators D8 (log 81), tag zero D1 (log 21). The semantics of the carried-over instructions
are the spec's from general knowledge (log 60). Addresses, PC and Y + 1 among them, wrap by D17 (log 63). The
single-indexed reading of TSX, TXF, XLF and XLB is D6 (log 83). No turn of another agent falls inside (log 33). -/
def Obligations.WorkingTransfersComplete : Prop :=
  ∀ (o : Operand) (s : State) (ea : Addr), s.inside = [] → s.ttrap = false →
    (effectiveAddress .double o s = .ok ea →
      exec (.tov o) s = .next { s with ov := false, pc := if s.ov then ea else s.pc } ∧
      exec (.tno o) s = .next { s with ov := false, pc := if s.ov then s.pc else ea } ∧
      exec (.htr o) s = .next { s with halted := true, pc := ea } ∧
      ∀ w, s.load ea = some w → s.violates ea = false →
        ∃ t, exec (.tsl o) s = .next t ∧ t = { s with mem := t.mem, pc := ea + 1 } ∧
          Stored s t ea [joinHalves (leftHalf w) (s.il + 1)]) ∧
    (effectiveAddress .single o s = .ok ea →
      exec (.tsx o) s = .next { s.setX o.t1.toNat (0 - s.il) with pc := ea } ∧
      exec (.txf o) s =
        .next { s.setX o.t1.toNat (s.x o.t1.toNat - 1) with pc := if s.x o.t1.toNat = 1 then s.pc else ea } ∧
      ∀ sum lim : Addr, sum = s.x o.t1.toNat + s.x 2 → lim = (if o.t1 = 1 then sum else s.x 1) →
        exec (.xlf o) s =
          .next { s.setX o.t1.toNat sum with pc := if sum.toNat ≤ lim.toNat then ea else s.pc } ∧
        exec (.xlb o) s =
          .next { s.setX o.t1.toNat sum with pc := if lim.toNat ≤ sum.toNat then ea else s.pc })

/-- In Transfer Trap Mode a successful transfer traps and an unsuccessful one does nothing. R252, R509: the order of
effect and trap is D11 of the spec (log 57), as is the saved address D10. That HTR sets HALTED and takes the
trap in the same step is D37 (R257, log 35), that XLF and XLB add XR2, compare unsigned and take XR1 after the
write D29 (log 27), that TXF, XLF and XLB leave the compare indicators D8 (log 81), the zero tests D30 (log 63),
TLQ's zeros D44 (log 64), TSL's half word C14 (log 66). What a trap's entry saves is TrapEntry's, with the
choices named there (logs 6, 12, 31, 57). Addresses, PC and Y + 1 among them, wrap by D17 (log 63). The
conditions of the plain transfers, R258, R260-R267, R270, R271 and R327-R332, and what the others do are those
of PlainTransfersComplete and WorkingTransfersComplete: the carried-over ones from general knowledge, PRESUMED
(log 60). Tag zero in TSX, TXF, XLF and XLB is D1 (log 21). The single-indexed reading of TSX, TXF, XLF and XLB
is D6 (log 83). That HTR is legal in Problem Program Mode is D33 (log 56). No turn of another agent falls inside
(log 33). -/
def Obligations.TransferTrapMode : Prop :=
  ∀ (o : Operand) (s : State) (ea : Addr), s.inside = [] → s.ttrap = true →
    (effectiveAddress .double o s = .ok ea →
      (∀ p ∈ plainTransfers o s, exec p.1 s = .next (if p.2 then takeTrap .transfer s else s)) ∧
      exec (.tov o) s = .next (if s.ov then takeTrap .transfer { s with ov := false } else s) ∧
      exec (.tno o) s = .next (if s.ov then { s with ov := false } else takeTrap .transfer s) ∧
      exec (.htr o) s = .next (takeTrap .transfer { s with halted := true }) ∧
      ∀ w, s.load ea = some w → s.violates ea = false →
        exec (.tsl o) s = .next (takeTrap .transfer (s.poke ea (joinHalves (leftHalf w) (s.il + 1))))) ∧
    (effectiveAddress .single o s = .ok ea →
      exec (.tsx o) s = .next (takeTrap .transfer (s.setX o.t1.toNat (0 - s.il))) ∧
      exec (.txf o) s =
        .next (if s.x o.t1.toNat = 1 then s.setX o.t1.toNat 0
          else takeTrap .transfer (s.setX o.t1.toNat (s.x o.t1.toNat - 1))) ∧
      ∀ sum lim : Addr, sum = s.x o.t1.toNat + s.x 2 → lim = (if o.t1 = 1 then sum else s.x 1) →
        exec (.xlf o) s =
          .next (if sum.toNat ≤ lim.toNat then takeTrap .transfer (s.setX o.t1.toNat sum)
            else s.setX o.t1.toNat sum) ∧
        exec (.xlb o) s =
          .next (if lim.toNat ≤ sum.toNat then takeTrap .transfer (s.setX o.t1.toNat sum)
            else s.setX o.t1.toNat sum))

/-- NOP, HPR, ETM, LTM and CMON; a halted machine takes no step. R253, R256, R283, R284, R293, R510, R500; what a
halt holds up is D37 of the spec (log 35), that HPR, ETM and LTM complete in Problem Program Mode too D33 (R250,
log 56), that CMON traps in every mode D50 and the word it stores D49 (log 73). What a trap's entry saves is
TrapEntry's, with the choices named there (logs 6, 12, 31, 57). Addresses, PC and Y + 1 among them, wrap by D17
(log 63). What NOP, HPR, ETM and LTM do (R253, R256, R283, R284) is carried over from general knowledge,
PRESUMED (log 60). No turn of another agent falls inside (log 33). -/
def Obligations.HaltsModesAndMonitorCall : Prop :=
  (∀ (o : Operand) (s : State) (ea : Addr), s.inside = [] → effectiveAddress .double o s = .ok ea →
      exec (.nop o) s = .next s ∧ exec (.hpr o) s = .next { s with halted := true } ∧
      exec (.etm o) s = .next { s with ttrap := true } ∧ exec (.ltm o) s = .next { s with ttrap := false } ∧
      exec (.cmon o) s = .next (takeTrap (.monitorCall ea) s)) ∧
    ∀ (s : State) (pick : Nat) (inside : List (List Turn)) (rest : List Event),
      s.halted = true → (s.script = [] ∨ s.script = .cpu pick inside :: rest) → step s = .next s.advance

/-- The tests that skip one instruction, and the compares CAS, LAS and CASI. R251, R274, R275, R277, R278,
R398-R403, R279, R280, R407: greater goes on, equal skips one, less skips two. What the skips count, and the
semantics of the carried-over instructions, are the spec's from general knowledge (log 60); skips relative to
the instruction are D11 (log 57). Addresses, PC and Y + 1 among them, wrap by D17 (log 63). Signed zeros in CAS
and LAS are D44 (log 64). No turn of another agent falls inside (log 33). -/
def Obligations.SkipsAndCompares : Prop :=
  (∀ (o : Operand) (s : State) (ea : Addr), s.inside = [] → effectiveAddress .double o s = .ok ea →
      (∀ p ∈ [(Instr.pbt o, s.ac.p), (.lbt o, decide (s.ac.m.toNat % 2 = 1)),
          (.rft o, decide (s.si &&& joinHalves 0 ea = 0)),
          (.rnt o, decide (s.si &&& joinHalves 0 ea = joinHalves 0 ea)),
          (.lft o, decide (s.si &&& joinHalves ea 0 = 0)),
          (.lnt o, decide (s.si &&& joinHalves ea 0 = joinHalves ea 0))],
        exec p.1 s = .next (if p.2 then { s with pc := s.pc + 1 } else s)) ∧
      ∀ w, s.load ea = some w →
        ∀ p ∈ [(Instr.zet o, decide (magnitude w = 0)), (.nzt o, decide (magnitude w ≠ 0)),
            (.oft o, decide (s.si &&& w = 0)), (.ont o, decide (s.si &&& w = w))],
          exec p.1 s = .next (if p.2 then { s with pc := s.pc + 1 } else s)) ∧
    ∀ (o : Operand) (s : State) (ea : Addr) (w : Word), s.inside = [] →
      effectiveAddress .double o s = .ok ea → s.load ea = some w →
      (∀ a b : Int, a = algebraic s.ac.s s.ac.m.toNat → b = algebraic (signOf w) (magnitude w).toNat →
        exec (.cas o) s = .next { s with pc := if b < a then s.pc else if a = b then s.pc + 1 else s.pc + 2 }) ∧
      (∀ a b : Nat, a = s.ac.m.toNat → b = w.toNat →
        exec (.las o) s = .next { s with pc := if b < a then s.pc else if a = b then s.pc + 1 else s.pc + 2 }) ∧
      ∀ a b : Nat, a = (s.ac.logical &&& s.si).toNat → b = (w &&& s.si).toNat →
        exec (.casi o) s = .next { s with pc := if b < a then s.pc else if a = b then s.pc + 1 else s.pc + 2 }

/-- PSE and MSE: sense lights and sense switches. R272, R273, R116; the selectors are D48 of the spec (log 71). The
semantics of the carried-over instructions are the spec's from general knowledge (log 60). Addresses, PC and Y +
1 among them, wrap by D17 (log 63). The effective address as selector is D13 (log 30). A skip is no transfer,
D11 (log 57). The refusal of every other selector is D48 and D12 (logs 71, 55). No turn of another agent falls
inside (log 33). -/
def Obligations.SenseLightsAndSwitches : Prop :=
  ∀ (o : Operand) (s : State) (ea : Addr), s.inside = [] → effectiveAddress .double o s = .ok ea →
    (ea.toNat = 0o140 → exec (.pse o) s = .next { s with lights := 0 }) ∧
    (∀ n, 1 ≤ n → n ≤ 4 → ea.toNat = 0o140 + n →
      (∃ t, exec (.pse o) s = .next t ∧ t = { s with lights := t.lights } ∧
        ∀ k, k < 4 → t.lights.getLsbD k = (s.lights.getLsbD k || k == n - 1)) ∧
      (s.lights.getLsbD (n - 1) = false → exec (.mse o) s = .next s) ∧
      (s.lights.getLsbD (n - 1) = true →
        ∃ t, exec (.mse o) s = .next t ∧ t = { s with lights := t.lights, pc := s.pc + 1 } ∧
          ∀ k, k < 4 → t.lights.getLsbD k = (s.lights.getLsbD k && !(k == n - 1)))) ∧
    (∀ n, 1 ≤ n → n ≤ 6 → ea.toNat = 0o160 + n →
      exec (.pse o) s = .next (if s.switches.getLsbD (n - 1) then { s with pc := s.pc + 1 } else s)) ∧
    ((.pse o : Instr).selectedBy ea = false → exec (.pse o) s = .refused .unassignedSelector) ∧
    ((.mse o : Instr).selectedBy ea = false → exec (.mse o) s = .refused .unassignedSelector)

/-- SMP, SCAR, ICT and ENB in Monitor Mode. R282, R292, R447, R448. The layout of CAR is D34 (log 9); that ICT
replaces the mask is D32 of the spec (log 48), the special channel log 42. When the restricted instructions are
checked is D33 (log 56), that ENB and ICT take any subset D45 (log 70). That ENB keeps a condition already held
is the reading of R448 (log 47). No turn of another agent falls inside (log 33). -/
def Obligations.MonitorInstructions : Prop :=
  ∀ (o : Operand) (s : State) (ea : Addr) (w : Word), s.inside = [] →
    effectiveAddress .double o s = .ok ea → s.load ea = some w → s.problem = false →
    (∃ t, exec (.smp o) s = .next t ∧ t = { s with lpr := t.lpr, hpr := t.hpr } ∧
      t.lpr.toNat = (leftHalf w).toNat / 2 ^ 8 ∧ t.hpr.toNat = (rightHalf w).toNat / 2 ^ 8) ∧
    (∃ t, exec (.scar o) s = .next t ∧ t = { s with car := t.car } ∧
      ∀ ch, maskBit t.car ch = position w (1 + (channelIndex ch).val)) ∧
    (∃ t, exec (.ict o) s = .next t ∧ t = { s with ictMask := t.ictMask, channels := t.channels } ∧
      (∀ ch, maskBit t.ictMask ch = position w (1 + (channelIndex ch).val)) ∧
      ∀ ch, t.channel ch =
        if ch = .special ∧ position w 1 = true then { s.channel ch with handed := true } else s.channel ch) ∧
    ∃ t, exec (.enb o) s = .next t ∧ t = { s with channels := t.channels } ∧
      ∀ ch, t.channel ch =
        if position w (1 + (channelIndex ch).val) then
          { s.channel ch with
            enb := w.extractLsb' 0 6, handed := (s.channel ch).handed || decide (ch = .special) }
        else s.channel ch

/-- Restricted instructions trap in Problem Program Mode with no effect. R506, R507; that CTR and ENB are always
restricted is D33 of the spec (log 56). That the four I/O instructions need every selected channel assigned is
D33 too. What a trap's entry saves is TrapEntry's, with the choices named there (logs 6, 12, 31, 57). That HCH
may select any subset is D45 (R442, log 70). No turn of another agent falls inside (log 33). -/
def Obligations.RestrictedInstructionsTrap : Prop :=
  ∀ (o : Operand) (s : State) (ea : Addr), s.inside = [] → effectiveAddress .double o s = .ok ea → s.problem = true →
    (∀ i ∈ [Instr.smp o, .ptr o, .ctr o, .scar o, .ict o, .enb o],
      exec i s = .next (takeTrap .illegalOperation s)) ∧
    ∀ w, s.load ea = some w →
      (∀ ch, selected w = [ch] → maskBit s.car ch = false →
        ∀ i ∈ [Instr.stc o, .cht o, .sch o], exec i s = .next (takeTrap .illegalOperation s)) ∧
      ∀ ch, position w (1 + (channelIndex ch).val) = true → maskBit s.car ch = false →
        exec (.hch o) s = .next (takeTrap .illegalOperation s)

/-- PTR and CTR load the modes and PC from a status word. R519, R520; the places of the mode bits are the model's
choice, the default MS_LAYOUT (log 7), and so is the return address, D10 of the spec (log 57). That CTR is
restricted is D33 (log 56), that its store is not checked D9 (log 31). That PTR brings back what a trap saved
needs the save location to be none of those the trap's information is stored in: D3, the ten fixed locations
pairwise distinct (log 6). IL + 1 wraps by D17 (log 63); the information itself is open, D46 (log 12). That PTR
and CTR go round Transfer Trap Mode is D11 (log 57), that CTR leaves the mask of ICT D32 (log 48), that the mode
word is the three bits alone D4 (log 7). No turn of another agent falls inside (log 33). -/
def Obligations.ReturnsFromTraps : Prop :=
  ∀ (o : Operand) (s : State) (ea : Addr) (w : Word), s.inside = [] →
    effectiveAddress .double o s = .ok ea → s.problem = false →
    (s.load ea = some w →
      exec (.ptr o) s =
        .next { s with
          compat := position w 0, problem := position w 1, ttrap := position w 2, pc := rightHalf w }) ∧
    (s.load Config.statusLocation = some w →
      ∃ t, exec (.ctr o) s = .next t ∧
        t = { s with
          compat := position w 0, problem := position w 1, ttrap := position w 2, pc := rightHalf w
          cti := false, mem := t.mem } ∧
        Stored s t Config.statusLocation [0] ∧
        ∀ (ch : ChannelId) (k : TrapKind), ch ≠ .special → (s.channel ch).pending k = true →
          maskBit s.ictMask ch = false → t.deliverable ch k = true) ∧
    ∀ (u : State) (trap : CpuTrap), (∀ op x, trap ≠ .ioInCompatibleMode op x) → trap ≠ .transfer →
      s = takeTrap trap u → ea = locationAddress trap.save →
      ∃ t, exec (.ptr o) s = .next t ∧ t.compat = u.compat ∧ t.problem = u.problem ∧ t.ttrap = u.ttrap ∧
        t.pc = u.il + 1

/-- CTR restores mode and PC from the CPU status location, zeroes it and clears CTI. R520. The word is the one
packModes makes, so that no layout of its bits is assumed. Which address the CPU status location is stays open
(log 6). No turn of another agent falls inside (log 33). -/
def Obligations.ChannelTrapReturn : Prop :=
  ∀ (o : Operand) (s : State) (ea pc : Addr) (compat problem ttrap : Bool), s.inside = [] →
    effectiveAddress .double o s = .ok ea → s.problem = false →
    s.load Config.statusLocation = some (joinHalves (packModes compat problem ttrap) pc) →
    ∃ t, exec (.ctr o) s = .next t ∧
      t = { s with compat := compat, problem := problem, ttrap := ttrap, pc := pc, cti := false, mem := t.mem } ∧
      Stored s t Config.statusLocation [0] ∧
      ∀ (ch : ChannelId) (k : TrapKind), ch ≠ .special → (s.channel ch).pending k = true →
        maskBit s.ictMask ch = false → t.deliverable ch k = true

/-- Taking a CPU trap: what is saved where, the modes cleared, and where control goes. R502. That the saved address
is IL + 1, IL for the Transfer Trap, is decision D10 of the spec (R512, log 57), the form of the Monitor Call
word at R2 decision D49 (R513, log 73): choices, not the source's. That the stores of an entry are not checked
for protection is D9 (log 31); the spill codes are open, D46 (log 12). That the saved word and each information
word are there at the end rests on R1 to R10 being pairwise distinct, decision D3 (log 6). IL + 1 wraps by D17
(log 63). That the mode word is the three bits alone is D4 (log 7). No turn of another agent falls inside (log
33; TurnsBetweenAccesses). -/
def Obligations.TrapEntry : Prop :=
  (∀ (c : CpuTrap) (s : State), s.inside = [] → raise c s = .next (takeTrap c s)) ∧
    (∀ (c : CpuTrap) (s t : State), t = takeTrap c s →
      t = { s with compat := false, problem := false, ttrap := false, pc := t.pc, mem := t.mem } ∧
      t.pc = locationAddress c.target ∧
      t.load (locationAddress c.save) =
        some (joinHalves (packModes s.compat s.problem s.ttrap) (c.returnAddress s.il)) ∧
      (∀ p ∈ c.information, t.load (locationAddress p.1) = some p.2) ∧
      ∀ a, a ≠ locationAddress c.save → (∀ p ∈ c.information, a ≠ locationAddress p.1) →
        t.load a = s.load a) ∧
    (∀ (i : Instr) (sp : Spill), (CpuTrap.floatingPoint i sp).target = .r6 ∧
      (CpuTrap.floatingPoint i sp).save = .r4 ∧
      (CpuTrap.floatingPoint i sp).information.map Prod.fst = [.r1]) ∧
    (CpuTrap.divideCheck.target = .r6 ∧ CpuTrap.divideCheck.save = .r4 ∧
      CpuTrap.divideCheck.information.map Prod.fst = [.r1]) ∧
    (∀ c ∈ [CpuTrap.protectViolation, .illegalOperation],
      c.target = .r7 ∧ c.save = .r5 ∧ c.information.map Prod.fst = [.r2]) ∧
    (∀ (op : BitVec 9) (x : Addr), (CpuTrap.ioInCompatibleMode op x).target = .r8 ∧
      (CpuTrap.ioInCompatibleMode op x).save = .r5 ∧
      (CpuTrap.ioInCompatibleMode op x).information.map Prod.fst = [.r2, .r3]) ∧
    (CpuTrap.transfer.target = .r9 ∧ CpuTrap.transfer.save = .r5 ∧ CpuTrap.transfer.information = []) ∧
    (∀ x : Addr, (CpuTrap.monitorCall x).target = .r10 ∧ (CpuTrap.monitorCall x).save = .r5 ∧
      (CpuTrap.monitorCall x).information = [(.r2, joinHalves 0 x)]) ∧
    (∀ l : Addr, CpuTrap.transfer.returnAddress l = l) ∧
    ∀ (c : CpuTrap) (l : Addr), c ≠ .transfer → (∀ op x, c ≠ .ioInCompatibleMode op x) →
      c.returnAddress l = l + 1

/-- Every trap goes to Monitor Mode at a fixed location. R522. The locations are constants of the machine (log 6). -/
def Obligations.TrapsEnterMonitor : Prop :=
  (∀ (c : CpuTrap) (s t : State), raise c s = .next t →
      t.problem = false ∧ t.pc = locationAddress c.target ∧
        t = { s with
          compat := false, problem := false, ttrap := false, pc := t.pc, mem := t.mem, channels := t.channels
          acting := t.acting, outbox := t.outbox, inside := t.inside }) ∧
    ∀ (ch : ChannelId) (k : TrapKind) (s t : State), raiseChannelTrap ch k s = .next t →
      t.problem = false ∧ t.pc = channelTrapAddress ch k ∧
        t = { s with
          compat := false, problem := false, ttrap := false, cti := true, pc := t.pc, mem := t.mem
          channels := t.channels, acting := t.acting, outbox := t.outbox, inside := t.inside }

/-- XEC executes, in its own place, the instruction its chain of objects comes to. R254, R255. That the object acts
with the XEC's IL and PC, that the checks apply to it and that chains are unbounded is decision D43 of the spec
(R255, log 61). The bound on a chain's length, past which it cannot end, is log 29. An object of a 370 group is
decoded by its effective address, D13 (log 30). The semantics of the carried-over instructions are the spec's
from general knowledge (log 60). No turn of another agent falls inside (log 33). -/
def Obligations.ExecuteRunsItsObject : Prop :=
  (∀ (s u : State) (i j : Instr), s.inside = [] → ComesTo s i u j → u = s ∧ exec i s = exec j s) ∧
    ∀ (o : Operand) (s : State) (ea : Addr) (w : Word), s.inside = [] →
      effectiveAddress .double o s = .ok ea → s.load ea = some w →
      (∀ (i : Instr) (x : Addr), (∀ o', i ≠ .xec o') →
        (needsSelector w = true → effectiveAddress .double (operandField w) s = .ok x) →
        decodeCpu w x = .ok i → exec (.xec o) s = exec i s) ∧
      (w = assemble 0o252 o → exec (.xec o) s = .fault .endlessExecuteChain) ∧
      ∀ x, operationField w = 0o371 → effectiveAddress .double (operandField w) s = .ok x →
        exec (.xec o) s = .next s ∧
        ∀ (o' : Operand) (b : Addr), effectiveAddress .double o' s = .ok b →
          s.load b = some (assemble 0o252 o) → exec (.xec o') s = .next s

/-- Loading index registers, and the accumulator from one. R301-R309, R314-R318, R321, R333, R334. Tag zero is D1 of
the spec (log 21), PCHX D26 (log 25), that ADXS and SBXS leave the compare indicators D8 (log 81). The semantics
of the carried-over instructions are the spec's from general knowledge (log 60). The single-indexed reading is
D6 (log 83). No turn of another agent falls inside (log 33). -/
def Obligations.IndexLoads : Prop :=
  ∀ (o : Operand) (s : State) (ea : Addr), s.inside = [] → effectiveAddress .single o s = .ok ea →
    (∀ (w : Word), s.load ea = some w →
      ∀ p ∈ [(Instr.lxa o, rightHalf w), (.lxd o, leftHalf w), (.lac o, 0 - rightHalf w),
          (.ldc o, 0 - leftHalf w), (.lxs o, if signOf w then 0 - rightHalf w else rightHalf w),
          (.adxs o, if signOf w then s.x o.t1.toNat - rightHalf w else s.x o.t1.toNat + rightHalf w),
          (.sbxs o, if signOf w then s.x o.t1.toNat + rightHalf w else s.x o.t1.toNat - rightHalf w)],
        ∃ t, exec p.1 s = .next t ∧ t = { s with xr := t.xr } ∧
          ∀ j, j ≤ 15 → t.x j = if j = o.t1.toNat ∧ j ≠ 0 then p.2 else s.x j) ∧
    (∀ p ∈ [(Instr.axi o, ea), (.axc o, 0 - ea), (.pax o, rightHalf s.ac.logical),
        (.pac o, 0 - rightHalf s.ac.logical), (.pdc o, 0 - leftHalf (signed s.ac.s s.ac.mag)),
        (.pchx o, BitVec.ofNat 18 (s.ac.m.toNat / 2 ^ 27 % 2 ^ 8))],
      ∃ t, exec p.1 s = .next t ∧ t = { s with xr := t.xr } ∧
        ∀ j, j ≤ 15 → t.x j = if j = o.t1.toNat ∧ j ≠ 0 then p.2 else s.x j) ∧
    ∀ p ∈ [(Instr.pxa o, joinHalves 0 (s.x o.t1.toNat)), (.pxd o, joinHalves (s.x o.t1.toNat) 0),
        (.pca o, joinHalves 0 (0 - s.x o.t1.toNat)), (.pcd o, joinHalves (0 - s.x o.t1.toNat) 0)],
      exec p.1 s = .next { s with ac := Acc.make (signOf p.2) false false (magnitude p.2) }

/-- ADXD, ADXI, SBXD and SBXI: the register and the compare indicators; CXS, CXD and CXI. R319, R320, R322-R324,
R342, with the operands of R335-R337. That tag zero compares as zero is D1 of the spec (log 21); the case R324
leaves over, the unsigned comparison and one indicator alone are D7 (R300, log 20). The single-indexed reading
is D6 (log 83). No turn of another agent falls inside (log 33). -/
def Obligations.IndexArithmeticAndCompares : Prop :=
  ∀ (o : Operand) (s : State) (ea : Addr), s.inside = [] → effectiveAddress .single o s = .ok ea →
    (o.t1 = 0 → ∀ i ∈ [Instr.adxd o, .adxi o, .sbxd o, .sbxi o], exec i s = .next s) ∧
    (o.t1 ≠ 0 → ∀ x d : Addr, x = s.x o.t1.toNat →
      ∀ add sub : Instr,
        ((add = .adxi o ∧ sub = .sbxi o ∧ d = ea) ∨
          (add = .adxd o ∧ sub = .sbxd o ∧ (s.load ea).map rightHalf = some d)) →
        (∃ t, exec add s = .next t ∧ t = { s with xr := t.xr, ixh := t.ixh, ixl := t.ixl, ixe := t.ixe } ∧
          t.x o.t1.toNat = x + d ∧ (∀ j, j ≠ o.t1.toNat → t.x j = s.x j) ∧
          (t.ixe = true ↔ x + d = 0) ∧ (t.ixh = true ↔ 2 ^ 18 < x.toNat + d.toNat) ∧
          (t.ixl = true ↔ x + d ≠ 0 ∧ x.toNat + d.toNat < 2 ^ 18)) ∧
        ∃ t, exec sub s = .next t ∧ t = { s with xr := t.xr, ixh := t.ixh, ixl := t.ixl, ixe := t.ixe } ∧
          t.x o.t1.toNat = x - d ∧ (∀ j, j ≠ o.t1.toNat → t.x j = s.x j) ∧
          (t.ixe = true ↔ x = d) ∧ (t.ixl = true ↔ x.toNat < d.toNat) ∧
          (t.ixh = true ↔ d.toNat < x.toNat)) ∧
    ∀ (p : Instr × Addr) (x : Addr), x = (if o.t1 = 0 then 0 else s.x o.t1.toNat) →
      (p = (.cxi o, ea) ∨
        ∃ w, s.load ea = some w ∧
          p ∈ [(Instr.cxs o, if signOf w then 0 - rightHalf w else rightHalf w), (.cxd o, rightHalf w)]) →
      (p.2.toNat < x.toNat → exec p.1 s = .next { s with ixh := true, ixl := false, ixe := false }) ∧
      (x = p.2 → exec p.1 s = .next { s with ixh := false, ixl := false, ixe := true }) ∧
      (x.toNat < p.2.toNat → exec p.1 s = .next { s with ixh := false, ixl := true, ixe := false })

/-- ORA, ANA, ERA, COM, CLM, CHS, SSP, SSM and the register exchanges XCA, XCL, ENK, PIA. R361, R363, R365,
R367-R371; R162-R164 and R384 for the exchanges. The semantics of the carried-over instructions are the spec's
from general knowledge (log 60). The entry keys are the operator's, D48 (log 71). No turn of another agent falls
inside (log 33). -/
def Obligations.AccumulatorOperations : Prop :=
  ∀ (o : Operand) (s : State) (ea : Addr), s.inside = [] → effectiveAddress .double o s = .ok ea →
    (∀ w, s.load ea = some w →
      (∃ a : Acc, exec (.ora o) s = .next { s with ac := a } ∧ a.s = s.ac.s ∧ a.q = s.ac.q ∧
        a.logical = s.ac.logical ||| w) ∧
      (∃ a : Acc, exec (.ana o) s = .next { s with ac := a } ∧ a.s = false ∧ a.q = false ∧
        a.logical = s.ac.logical &&& w) ∧
      ∃ a : Acc, exec (.era o) s = .next { s with ac := a } ∧ a.s = false ∧ a.q = false ∧
        a.logical = s.ac.logical ^^^ w) ∧
    (∃ a : Acc, exec (.com o) s = .next { s with ac := a } ∧ a.s = s.ac.s ∧ a.q = !s.ac.q ∧
      a.logical = ~~~s.ac.logical) ∧
    exec (.clm o) s = .next { s with ac := { s := s.ac.s, m := 0 } } ∧
    exec (.chs o) s = .next { s with ac := { s := !s.ac.s, m := s.ac.m } } ∧
    exec (.ssp o) s = .next { s with ac := { s := false, m := s.ac.m } } ∧
    exec (.ssm o) s = .next { s with ac := { s := true, m := s.ac.m } } ∧
    exec (.xca o) s =
      .next { s with ac := Acc.make (signOf s.mq) false false (magnitude s.mq), mq := signed s.ac.s s.ac.mag } ∧
    exec (.xcl o) s =
      .next { s with ac := Acc.make false false (signOf s.mq) (magnitude s.mq), mq := signed s.ac.p s.ac.mag } ∧
    exec (.enk o) s = .next { s with mq := s.keys } ∧
    exec (.pia o) s = .next { s with ac := Acc.make false false (signOf s.si) (magnitude s.si) }

/-- The instructions that change the sense indicators, position by position. R380, R383, R385, R386, R388-R397. The
semantics of the carried-over instructions are the spec's from general knowledge (log 60). No turn of another
agent falls inside (log 33). -/
def Obligations.SenseIndicatorChanges : Prop :=
  ∀ (o : Operand) (s : State) (ea : Addr), s.inside = [] → effectiveAddress .double o s = .ok ea →
    (∀ p ∈ ([(.pai o, s.ac.logical, fun _ m => m), (.oai o, s.ac.logical, fun b m => b || m),
          (.ria o, s.ac.logical, fun b m => b && !m), (.iia o, s.ac.logical, fun b m => b != m),
          (.ril o, joinHalves ea 0, fun b m => b && !m), (.rir o, joinHalves 0 ea, fun b m => b && !m),
          (.sil o, joinHalves ea 0, fun b m => b || m), (.sir o, joinHalves 0 ea, fun b m => b || m),
          (.iil o, joinHalves ea 0, fun b m => b != m), (.iir o, joinHalves 0 ea, fun b m => b != m)] :
        List (Instr × Word × (Bool → Bool → Bool))),
      ∃ t, exec p.1 s = .next t ∧ t = { s with si := t.si } ∧
        ∀ k, k < 36 → position t.si k = p.2.2 (position s.si k) (position p.2.1 k)) ∧
    ∀ w, s.load ea = some w →
      ∀ p ∈ ([(.osi o, fun b m => b || m), (.ris o, fun b m => b && !m), (.iis o, fun b m => b != m)] :
          List (Instr × (Bool → Bool → Bool))),
        ∃ t, exec p.1 s = .next t ∧ t = { s with si := t.si } ∧
          ∀ k, k < 36 → position t.si k = p.2 (position s.si k) (position w k)

/-- FLT normalizes and truncates, FIX splits; each undoes the other where nothing is lost. R421, R422, R200. That
FLT truncates is D25 of the spec (log 18), as are the values FIX splits into (log 19). scaledValue is the value
of a floating-point word times 2^155. The floating-point format is the reference record's (log 13). No turn of
another agent falls inside (log 33). -/
def Obligations.FixAndFloat : Prop :=
  (∀ (o : Operand) (s : State) (ea : Addr) (w : Word), s.inside = [] →
      effectiveAddress .double o s = .ok ea → s.load ea = some w →
      (∃ a : Acc, exec (.flt o) s = .next { s with ac := a } ∧ a.s = signOf w ∧ a.q = false ∧ a.p = false ∧
        (magnitude w = 0 → a.mag = 0) ∧
        (magnitude w ≠ 0 → 2 ^ 26 ≤ a.mag.toNat % 2 ^ 27) ∧
        ((magnitude w).toNat < 2 ^ 27 → scaledValue a.signedWord = (magnitude w).toNat * 2 ^ 155) ∧
        ∀ j, 2 ^ (26 + j) ≤ (magnitude w).toNat → (magnitude w).toNat < 2 ^ (27 + j) →
          scaledValue a.signedWord = (magnitude w).toNat / 2 ^ j * 2 ^ j * 2 ^ 155) ∧
      (scaledValue w < 2 ^ 35 * 2 ^ 155 →
        ∃ t, exec (.fix o) s = .next t ∧ t = { s with ac := t.ac, mq := t.mq } ∧
          t.ac.s = signOf w ∧ signOf t.mq = signOf w ∧
          t.ac.m.toNat = scaledValue w / 2 ^ 155 ∧
          (magnitude t.mq).toNat = scaledValue w % 2 ^ 155 * 2 ^ 35 / 2 ^ 155)) ∧
    (∀ (w mq : Word) (ac : Acc) (r : FpResult), (magnitude w).toNat < 2 ^ 27 →
      r = Config.numerics.fix (Config.numerics.flt w).signedWord ac mq →
      r.ac = Acc.ofSigned w ∧ r.mq = signed (signOf w) 0) ∧
    ∀ (w mq : Word) (ac : Acc), scaledValue w < 2 ^ 35 * 2 ^ 155 → scaledValue w % 2 ^ 155 = 0 →
      (2 ^ 26 ≤ (magnitude w).toNat % 2 ^ 27 ∨ magnitude w = 0) →
      Config.numerics.flt (Config.numerics.fix w ac mq).ac.signedWord = Acc.ofSigned w

/-- SQXL, SXAR, SQXT and SXAT. R423-R426, R420. That the count is the whole effective address, eighteen bits, is D19
of the spec (R420, log 22); what the source leaves open of the four beside it is D26 and D27 (logs 25, 26), tag
zero D1 (log 21). Addresses, PC and Y + 1 among them, wrap by D17 (log 63). The single-indexed reading is D6
(log 83). A skip is no transfer, D11 (log 57). No turn of another agent falls inside (log 33). -/
def Obligations.IndexShifts : Prop :=
  ∀ (o : Operand) (s : State) (ea x : Addr), s.inside = [] → effectiveAddress .single o s = .ok ea →
    x = s.x o.t1.toNat →
    (∃ t, exec (.sqxl o) s = .next t ∧ t = { s with mq := t.mq, xr := t.xr } ∧
      t.mq.toNat = s.mq.toNat * 2 ^ ea.toNat % 2 ^ 36 ∧
      ∀ j, j ≤ 15 → (t.x j).toNat =
        if j = o.t1.toNat ∧ j ≠ 0 then (x.toNat * 2 ^ 36 + s.mq.toNat) * 2 ^ ea.toNat / 2 ^ 36 % 2 ^ 18
        else (s.x j).toNat) ∧
    (∃ t, exec (.sxar o) s = .next t ∧ t = { s with ac := t.ac } ∧ t.ac.s = false ∧
      t.ac.m.toNat = x.toNat % 2 ^ min ea.toNat 18) ∧
    (o.t1 = 1 → exec (.sqxt o) s = .refused .indexOneAsCount ∧ exec (.sxat o) s = .refused .indexOneAsCount) ∧
    (o.t1 ≠ 1 → ∀ n, n = min ea.toNat x.toNat →
      (∃ t, exec (.sqxt o) s = .next t ∧ t = { s with mq := t.mq, xr := t.xr, pc := t.pc } ∧
        t.mq.toNat = s.mq.toNat * 2 ^ n % 2 ^ 36 ∧
        (t.x 1).toNat = s.mq.toNat * 2 ^ n / 2 ^ 36 % 2 ^ 18 ∧
        (o.t1 ≠ 0 → t.x o.t1.toNat = x - ea) ∧ (∀ j, j ≠ 1 → j ≠ o.t1.toNat → t.x j = s.x j) ∧
        t.pc = if ea.toNat < x.toNat then s.pc + 1 else s.pc) ∧
      ∃ t, exec (.sxat o) s = .next t ∧ t = { s with ac := t.ac, xr := t.xr, pc := t.pc } ∧
        t.ac.s = s.ac.s ∧ t.ac.q = s.ac.q ∧
        t.ac.logical.toNat =
          (s.ac.logical.toNat * 2 ^ n % 2 ^ 36) |||
            (if ea.toNat < x.toNat then (s.x 1).toNat else (s.x 1).toNat / 2 ^ (ea.toNat - x.toNat)) ∧
        (o.t1 ≠ 0 → t.x o.t1.toNat = x - ea) ∧ (∀ j, j ≠ o.t1.toNat → t.x j = s.x j) ∧
        t.pc = if ea.toNat < x.toNat then s.pc + 1 else s.pc)

/-- What the spec refuses: the instructions to be defined, SBP, unassigned codes. R540, R430, R116, R188, R192,
R216. The refusals are the spec's own decisions and so the model's choice: the instructions to be defined and
SBP D53 (log 54), unassigned codes and selectors D12 (log 55), IMP, IDV and FRD with Q or P one D21, D22 and D57
(log 62). Addresses, PC and Y + 1 among them, wrap by D17 (log 63). That the selector of a 370 word is its
effective address is D13 (log 30). No turn of another agent falls inside (log 33). -/
def Obligations.RefusedInstructions : Prop :=
  (∀ (o : Operand) (s : State) (ea : Addr), s.inside = [] → effectiveAddress .double o s = .ok ea →
      (∀ i ∈ [Instr.ltmr o, .stmr o, .lrtc o, .srtc o, .cdec o, .cbin o], exec i s = .refused .toBeDefined) ∧
      exec (.sbp o) s = .refused .notDescribed ∧
      (s.ac.q = true ∨ s.ac.p = true →
        ∀ i ∈ [Instr.imp o, .idv o, .frd o], exec i s = .refused .operandAboveWord)) ∧
    ∀ (s : State) (w : Word) (ea : Addr), s.script = [] → s.halted = false → s.compat = false →
      s.deliverables = [] → s.load s.pc = some w →
      (needsSelector w = true →
        effectiveAddress .double (operandField w) { s.advance with il := s.pc, pc := s.pc + 1 } = .ok ea) →
      (decodeCpu w ea = .error .unassignedOperation → step s = .refused .unassignedOperation) ∧
      (decodeCpu w ea = .error .unassignedSelector → step s = .refused .unassignedSelector)

/-- STC starts an idle channel and leaves a busy one alone. R442, R443, R82. The special channel and the refusal are
D45 of the spec (log 42, 70), the inhibit D35 (log 69). A busy special channel is handed over too (R442, log
42). Addresses, PC and Y + 1 among them, wrap by D17 (log 63). A skip is no transfer, D11 (log 57). That STC
skips one instruction is the reading of R443 (log 70). The first word is read within the instruction (R443, log
38). An assigned channel is legal in Problem Program Mode, D33 (log 56). No turn of another agent falls inside
(log 33). -/
def Obligations.StartChannel : Prop :=
  ∀ (o : Operand) (s : State) (ea : Addr) (w : Word), s.inside = [] →
    effectiveAddress .double o s = .ok ea → s.load ea = some w →
    ((∀ ch, selected w ≠ [ch]) →
      ∀ i ∈ [Instr.stc o, .cht o, .sch o], exec i s = .refused .notOneChannel) ∧
    ∀ ch, selected w = [ch] → (s.problem = true → maskBit s.car ch = true) →
      ((s.channel ch).busy = true →
        exec (.stc o) s =
          .next (if ch = .special then s.setChannel ch { s.channel ch with handed := true } else s)) ∧
      ((s.channel ch).busy = false → ch ≠ .special → ∀ first, s.load (rightHalf w) = some first →
        ∃ t, exec (.stc o) s = .next t ∧ t = { s with channels := t.channels, pc := s.pc + 1 } ∧
          (∀ other, other ≠ ch → t.channel other = s.channel other) ∧
          t.channel ch =
            { s.channel ch with
              status := none, unit := w.extractLsb' 18 8, inhibit := !s.problem && signOf w
              lc := rightHalf w + 1, haltRequest := false, phase := .decode none first }) ∧
      ((s.channel ch).busy = false → ch = .special →
        ∃ t, exec (.stc o) s = .next t ∧ t = { s with channels := t.channels, pc := s.pc + 1 } ∧
          (∀ other, other ≠ ch → t.channel other = s.channel other) ∧
          t.channel ch =
            { s.channel ch with
              status := none, unit := w.extractLsb' 18 8, inhibit := !s.problem && signOf w
              lc := rightHalf w, haltRequest := false, phase := .environment })

/-- CHT, SCH and HCH: what is stored, skipped, requested, and handed to the environment. R442, R444-R446, R82, R83,
R471. That a channel whose store violates is handed over with its own sequence going on is log 51 (and log 75);
the special channel is log 42. The status word and availability are oracles (log 44), the layout of SCH's words
log 10. The inhibit, position S of the select word in Monitor Mode alone, is D35 with C16 (log 69). Addresses,
PC and Y + 1 among them, wrap by D17 (log 63). That HCH takes any subset of the nine positions, the empty one
included, is D45 (R442, log 70); so is the layout of SCH's words, that no busy channel is available (log 44),
and that CHT's store is complete with the instruction. That a violating word is dropped, where the source says
nothing of it, is D35 (R83, log 51). A skip is no transfer, D11 (log 57). An assigned channel is legal in
Problem Program Mode, D33 (log 56). No turn of another agent falls inside (log 33). -/
def Obligations.TestStoreAndHaltChannel : Prop :=
  ∀ (o : Operand) (s : State) (ea : Addr) (w : Word), s.inside = [] →
    effectiveAddress .double o s = .ok ea → s.load ea = some w →
    (∀ (ch : ChannelId) (inhibit bad0 bad1 : Bool), selected w = [ch] →
      (s.problem = true → maskBit s.car ch = true) → inhibit = (!s.problem && signOf w) →
      bad0 = s.channelViolates inhibit (rightHalf w) → bad1 = s.channelViolates inhibit (rightHalf w + 1) →
      (∃ (t : State) (v : Word), exec (.cht o) s = .next t ∧
        t = { s with mem := t.mem, channels := t.channels, pc := t.pc } ∧ (t.pc = s.pc ∨ t.pc = s.pc + 1) ∧
        ((s.channel ch).busy = true → t.pc = s.pc) ∧
        (bad0 = false → Stored s t (rightHalf w) [v]) ∧ (bad0 = true → SameStorage s t) ∧
        (∀ other, other ≠ ch → t.channel other = s.channel other) ∧
        t.channel ch =
          { s.channel ch with handed := (s.channel ch).handed || bad0 || decide (ch = .special) }) ∧
      ∃ (t : State) (v0 v1 : Word), exec (.sch o) s = .next t ∧
        t = { s with mem := t.mem, channels := t.channels } ∧
        (ch ≠ .special → v0 = joinHalves 0 (s.channel ch).lc ∧
          v1 = joinHalves ((s.channel ch).wc.setWidth 18) (s.channel ch).da) ∧
        (bad0 = false → bad1 = false → Stored s t (rightHalf w) [v0, v1]) ∧
        (bad0 = false → bad1 = true → Stored s t (rightHalf w) [v0]) ∧
        (bad0 = true → bad1 = false → Stored s t (rightHalf w + 1) [v1]) ∧
        (bad0 = true → bad1 = true → SameStorage s t) ∧
        (∀ other, other ≠ ch → t.channel other = s.channel other) ∧
        t.channel ch =
          { s.channel ch with handed := (s.channel ch).handed || bad0 || bad1 || decide (ch = .special) }) ∧
    ((s.problem = true → ∀ ch ∈ selected w, maskBit s.car ch = true) →
      ∃ t, exec (.hch o) s = .next t ∧ t = { s with channels := t.channels } ∧
        ∀ ch, t.channel ch =
          if position w (1 + (channelIndex ch).val) = true then
            { s.channel ch with
              haltRequest := (s.channel ch).haltRequest || (s.channel ch).busy
              handed := (s.channel ch).handed || decide (ch = .special) }
          else s.channel ch)

/-- The seven channel commands and five data control words. R451, R453-R457, R459-R463, R466. The indirect command
address is D45 of the spec (log 72), the refusal C26 (log 52); that a flag an operation is not listed for,
Control's address and TCH's A/D flag do nothing is the model's choice (logs 76, 77, 78). An XEC through an
indirect word reads one word in a turn, so that other agents can come between (D15, log 33). The sequencing is
the refined form of R472 b (log 38). That a control unit operation or an XEC met where a data control word is
wanted is the environment's is R466 (logs 38, 72). What is sent goes to the outbox, the model's own field (log
36). -/
def Obligations.ChannelWordsExecuted : Prop :=
  ∀ (s : State) (f : CmdFlags) (y : Addr) (c : Channel), c = s.channel s.acting →
    (c.phase.current = none →
      (∀ (m4 : BitVec 4) (m6 : BitVec 6),
        ∀ p ∈ [(Instr.chSense m4 f y, UnitOperation.sense, ((m4 ++ 4#4).cast rfl : BitVec 8)),
            (.chReadBackward m4 f y, .readBackward, (m4 ++ 12#4).cast rfl),
            (.chWrite m6 f y, .write, (m6 ++ 1#2).cast rfl), (.chRead m6 f y, .read, (m6 ++ 2#2).cast rfl),
            (.chControl m6 f y, .control, (m6 ++ 3#2).cast rfl)],
          exec p.1 s =
            .next { s.setChannel s.acting
                { c with
                  phase := if p.2.1 = .control ∧ f.immediate = true then .complete ⟨p.2.1, p.2.2, f, y⟩
                    else .fetch (some ⟨p.2.1, p.2.2, f, y⟩) } with
              outbox := .order s.acting c.unit p.2.2 :: s.outbox }) ∧
      (∀ w, s.load y = some w →
        exec (.chXec f y) s =
          .next (s.setChannel s.acting
            { c with phase := if f.indirect then .object (rightHalf w) else .decode none w })) ∧
      ∀ n : BitVec 15, ∀ i ∈ [Instr.dcwTcw n y, .dcwTcwInd n y, .dcwCcw n y, .dcwCcwn n y, .dcwCcwInd n y],
        exec i s = .next (s.setChannel s.acting { c with phase := .fetch none })) ∧
    (∀ a w (r : DeviceReply), c.phase = .object a → s.load a = some w →
      channelStep r s = .next (s.setChannel s.acting { c with phase := .decode none w })) ∧
    (∀ a, (if f.indirect then (s.load y).map rightHalf = some a else a = y) →
      exec (.chTch f y) s =
        .next (s.setChannel s.acting { c with lc := a, phase := .fetch c.phase.current })) ∧
    ∀ (cmd : Command) (n : BitVec 15), c.phase.current = some cmd →
      (∀ (m4 : BitVec 4) (m6 : BitVec 6),
        ∀ i ∈ [Instr.chSense m4 f y, .chReadBackward m4 f y, .chWrite m6 f y, .chRead m6 f y, .chControl m6 f y,
            .chXec f y],
          exec i s = .next (s.setChannel s.acting { c with phase := .environment })) ∧
      (∀ p ∈ [(Instr.dcwTcw n y, false, false), (.dcwCcw n y, true, false), (.dcwCcwn n y, true, true)],
        exec p.1 s =
          .next (s.setChannel s.acting { c with wc := n, da := y, phase := .transmit cmd p.2.1 p.2.2 })) ∧
      ∀ w, s.load y = some w →
        ∀ p ∈ [(Instr.dcwTcwInd n y, false), (.dcwCcwInd n y, true)],
          (signOf w = true → exec p.1 s = .refused .wideDataAddress) ∧
          (signOf w = false → exec p.1 s =
            .next (s.setChannel s.acting { c with wc := n, da := rightHalf w, phase := .transmit cmd p.2 false }))

/-- Fetching a channel word, words assigned to nothing, one step of transmission, chaining, completion. R83, R446,
R451, R454, R458, R462, R464-R468, R471. How the data address steps is open (logs 39, 40); that CCWN on Write or
Control sends its words all the same, which R462 does not cover, is log 41; what a halt request ends with is D45
of the spec (log 49), a violating store's consequence log 50, words assigned to nothing log 74. A condition held
until a trap is taken is D31 (log 47); the consequence of a violating store is D35 (R83). The direction of data
of Sense, Read, Read Backward, Write and Control is PRESUMED (log 38; R454 has it from general knowledge); the
attention held to the disconnection is log 43, the status taken from the reply log 44. That a word count of zero
from the start moves no word, which R466 says is not in the source, is log 85. Addresses, PC and Y + 1 among
them, wrap by D17 (log 63). What is sent goes to the outbox, the model's own field (log 36). -/
def Obligations.ChannelTransmission : Prop :=
  ∀ (s : State) (r : DeviceReply) (c : Channel) (cmd : Command) (chain off : Bool), c = s.channel s.acting →
    (∀ cur w, c.phase = .fetch cur → s.load c.lc = some w →
      channelStep r s = .next (s.setChannel s.acting { c with lc := c.lc + 1, phase := .decode cur w })) ∧
    (∀ cur w, c.phase = .decode cur w → decodeChannel w = none →
      channelStep r s =
        .next (s.setChannel s.acting
          { c with phase := if cur = none ∧ isCommand w = false then .fetch none else .environment })) ∧
    (c.phase = .transmit cmd chain off →
      (r.endSignal = false → c.wc = 0 → chain = true →
        channelStep r s =
          .next (s.setChannel s.acting
            { c with phase := .fetch (some cmd), pendingAttention := c.pendingAttention || c.enabled .chain })) ∧
      (r.endSignal = false → c.wc ≠ 0 →
        ∀ next, next = (if cmd.operation = .readBackward then r.nextAddress else c.da + 1) →
        ∀ moved, moved = s.setChannel s.acting { c with wc := c.wc - 1, da := next } →
        (cmd.operation = .read ∨ cmd.operation = .readBackward ∨ cmd.operation = .sense →
          (off = true → channelStep r s = .next moved) ∧
          (off = false → s.channelViolates c.inhibit c.da = true →
            channelStep r s = .next (s.setChannel s.acting { c with phase := .environment })) ∧
          (off = false → s.channelViolates c.inhibit c.da = false →
            ∃ t, channelStep r s = .next t ∧ t = { moved with mem := t.mem } ∧ Stored s t c.da [r.word])) ∧
        (cmd.operation = .write ∨ cmd.operation = .control →
          ∀ w, s.load c.da = some w →
            channelStep r s = .next { moved with outbox := .word s.acting w :: s.outbox }))) ∧
    (c.phase = .complete cmd →
      ∀ ended, ended =
        { c with
          status := r.status, phase := .idle, attentionWaiting := false
          pendingAttention := c.pendingAttention || (c.attentionWaiting && c.enabled .attentionNotInUse) } →
      (r.conditions.any = true →
        channelStep r s =
          .next (s.setChannel s.acting
            { ended with
              pendingUnusual :=
                c.pendingUnusual ||
                  ((r.conditions.dataError || r.conditions.exceptional || r.conditions.intervention) &&
                    c.enabled .unusualEnd) ||
                  (r.conditions.incorrectLength && c.enabled .incorrectLength) })) ∧
      (r.conditions.any = false → c.haltRequest = true ∨ cmd.flags.advance = false →
        channelStep r s =
          .next (s.setChannel s.acting
            { ended with pendingEnd := c.pendingEnd || c.enabled .ending })))

/-- Chaining between data control words, and advance or disconnect at the completion of a command. R464, R465. That
a store that violates protection leaves the channel to the environment is decision D35 of the spec (R83, log
50); a halt request is R446's, D45 (log 49). That a word count of zero from the start moves no word, which R466
says is not in the source, is log 85. The sequencing is the refined form of R472 b (log 38). The status is the
reply's (log 44), the pending bit D31 (log 47). -/
def Obligations.ChainingAndAdvance : Prop :=
  ∀ (s : State) (r : DeviceReply) (c : Channel) (cmd : Command) (chain off : Bool), c = s.channel s.acting →
    (c.phase = .transmit cmd chain off →
      (r.endSignal = true → channelStep r s = .next (s.setChannel s.acting { c with phase := .complete cmd })) ∧
      (r.endSignal = false → c.wc = 0 → chain = true →
        ∃ t, channelStep r s = .next t ∧ (t.channel s.acting).phase = .fetch (some cmd) ∧
          (t.channel s.acting).lc = c.lc ∧
          (c.enabled .chain = true → (t.channel s.acting).pendingAttention = true)) ∧
      (r.endSignal = false → c.wc = 0 → chain = false →
        channelStep r s = .next (s.setChannel s.acting { c with phase := .complete cmd })) ∧
      (r.endSignal = false → c.wc ≠ 0 → ∀ t, channelStep r s = .next t →
        (t.channel s.acting).phase = .transmit cmd chain off ∨
          (t.channel s.acting).phase = .environment ∧ s.channelViolates c.inhibit c.da = true)) ∧
    (c.phase = .complete cmd →
      (r.conditions.any = true → ∃ t, channelStep r s = .next t ∧ (t.channel s.acting).busy = false) ∧
      (r.conditions.any = false → c.haltRequest = false → cmd.flags.advance = true →
        channelStep r s = .next (s.setChannel s.acting { c with status := r.status, phase := .fetch none })) ∧
      (r.conditions.any = false → cmd.flags.advance = false →
        ∃ t, channelStep r s = .next t ∧ (t.channel s.acting).busy = false)) ∧
    ∀ w i, c.phase = .decode none w → isCommand w = false → decodeChannel w = some i →
      channelStep r s = .next (s.setChannel s.acting { c with phase := .fetch none })

/-- A channel's step changes no register of the processor and respects protection. R472 (channels do not read or
write CPU registers), R471, R82, R83. That a violating word of a channel is not stored is decision D35 of the
spec (R83, log 50), which R83 says is not in the source; the inhibit is D35 with C16 (log 69). What a channel
does in its turn is the refined form of R472 b (log 38). -/
def Obligations.ChannelsLeaveTheProcessor : Prop :=
  ∀ (s t : State) (ch : ChannelId) (r : DeviceReply) (rest : List Event),
    s.script = .turn (.channel ch r) :: rest → step s = .next t →
    t = { s with
      channels := t.channels, mem := t.mem, acting := ch, script := rest, outbox := t.outbox, tick := s.tick + 1
      inside := [] } ∧
    (∀ other, other ≠ ch → t.channel other = s.channel other) ∧
    ((s.channel ch).inhibit = false → ∀ a, s.outsideBounds a = true → t.load a = s.load a)

/-- A deliverable channel trap is taken before the fetch, and CTR undoes it. R514, R516, R517, R520, R500. Which
trap is taken first is open (log 46), the trap's three words are an oracle (log 45). That the trap is taken
before the fetch, and only between instructions, is decision D31 of the spec (R500, R516, log 47); that its
stores are not checked for protection is D9 (log 31); that none is taken while halted is D37 (log 35). The
locations are open, D3 (log 6), the places of the mode bits MS_LAYOUT (log 7). The special channel has no trap
(R515, log 42). No turn of another agent falls inside (log 33). -/
def Obligations.ChannelTrapTaken : Prop :=
  (∀ (s : State) (pick : Nat) (rest : List Event) (ch : ChannelId) (k : TrapKind),
      s.script = .cpu pick [] :: rest → s.halted = false → s.advance.chooseTrap pick = some (ch, k) →
      ∃ t, step s = .next t ∧
        t = { s with
          compat := false, problem := false, ttrap := false, cti := true, pc := channelTrapAddress ch k
          channels := t.channels, mem := t.mem, script := rest, tick := s.tick + 1, inside := [] } ∧
        (s.channel ch).pending k = true ∧ t.channel ch = (s.channel ch).setPending k false ∧
        (∀ other, other ≠ ch → t.channel other = s.channel other) ∧
        t.load Config.statusLocation = some (joinHalves (packModes s.compat s.problem s.ttrap) s.pc) ∧
        (∀ a, a ∉ channelTrapStores → t.load a = s.load a) ∧
        ∀ (o : Operand) (ea : Addr), effectiveAddress .double o t = .ok ea →
          ∃ u, exec (.ctr o) t = .next u ∧ u.pc = s.pc ∧ u.compat = s.compat ∧ u.problem = s.problem ∧
            u.ttrap = s.ttrap ∧ u.cti = false) ∧
    (∀ s : State, s.cti = true → s.deliverables = []) ∧
    ∀ (s : State) (ch : ChannelId) (k : TrapKind),
      (ch, k) ∈ s.deliverables ↔
        ch ≠ .special ∧ (s.channel ch).pending k = true ∧ s.cti = false ∧ maskBit s.ictMask ch = false

/-- Turns of other agents fall between the storage accesses of one instruction. R77, R87, R563 b, R564, R472. That
nothing larger than one word's access is indivisible is decision D15 of the spec, RMW_ATOMIC false; the lists of
turns are the model's form of it (log 33). The fetch is preceded by a step of its own. What the environment may
do in a turn is D45 (log 38). In CMON's clause the return address IL + 1 is D10 (log 57) and the form of the
word at R2 D49 (log 73). The trap locations are D3's (log 6), the order of a double store D9 (log 31), Y + 1
wraps by D17 (log 63). The semantics of the carried-over instructions are the spec's from general knowledge (log
60). That a double operand may stand at any address, an odd one included, is D18 (log 32). Tag zero in the
address is D1 (log 21), the mode word packs exactly three bits by D4 (log 7), that CMON traps in every mode is
D50 (log 73). -/
def Obligations.TurnsBetweenAccesses : Prop :=
  (∀ (turns : List Turn) (s t : State), runTurns turns s = .next t →
      t = { s with channels := t.channels, mem := t.mem, acting := t.acting, outbox := t.outbox }) ∧
    ∀ (o : Operand) (s u : State) (ea : Addr) (first second : List Turn), s.inside = [first, second] →
      ea = directAddress .double o s →
      (∀ f, runTurns first { s with inside := [second] } = .fault f → o.f = false →
        exec (.cla o) s = .fault f) ∧
      (runTurns first { s with inside := [second] } = .next u →
        (o.f = false →
          (∀ w, u.load ea = some w →
            exec (.cla o) s = .next { u with ac := Acc.make (signOf w) false false (magnitude w) } ∧
            ∀ v, runTurns second { u with inside := [] } = .next v →
              (∀ w1, v.load (ea + 1) = some w1 →
                exec (.dla o) s =
                  .next { v with ac := Acc.make (signOf w) false false (magnitude w), mq := w1 }) ∧
              (v.violates ea = false →
                ∀ p ∈ [(Instr.ors o, w ||| s.ac.logical), (.ans o, w &&& s.ac.logical), (.ers o, w ^^^ s.ac.logical),
                    (.stal o, joinHalves (rightHalf s.ac.logical) (rightHalf w)),
                    (.star o, joinHalves (leftHalf w) (rightHalf s.ac.logical))],
                  exec p.1 s = .next (v.poke ea p.2))) ∧
          (u.violates ea = false →
            exec (.sto o) s = .next (u.poke ea (signed s.ac.s s.ac.mag)) ∧
            ∀ v, runTurns second { u.poke ea (signed s.ac.s s.ac.mag) with inside := [] } = .next v →
              v.violates (ea + 1) = false → exec (.dst o) s = .next (v.poke (ea + 1) s.mq)) ∧
          ∀ v,
            runTurns second
                { u.poke (locationAddress .r5) (joinHalves (packModes s.compat s.problem s.ttrap) (s.il + 1)) with
                  inside := [] } = .next v →
              exec (.cmon o) s =
                .next { v.poke (locationAddress .r2) (joinHalves 0 ea) with
                  compat := false, problem := false, ttrap := false, pc := locationAddress .r10 }) ∧
        (o.f = true → ∀ (iw w : Word) (x : Addr) (v : State), u.load ea = some iw →
          (operandField iw).f = false → x = directAddress .double (operandField iw) s →
          runTurns second { u with inside := [] } = .next v → v.load x = some w →
          exec (.cla o) s = .next { v with ac := Acc.make (signOf w) false false (magnitude w) }))

/-- A problem program changes no protected word and no privileged register. R80-R82, R84, R502, R505-R507. That the
hardware's own stores are not checked is decision D9 of the spec (log 31). That enable masks and CTI stay rests
on ENB and CTR always being illegal in Problem Program Mode, decision D33 (R507, log 56); the channels' bounds
rest on D35 (logs 50, 69). The locations a trap stores to are open, D3 (log 6), turns inside the instruction are
log 33. -/
def Obligations.ProblemModeConfined : Prop :=
  ∀ (i : Instr) (s t : State), s.problem = true → exec i s = .next t →
    SamePrivileges s t ∧
      ((s.inside = [] ∨ ∀ ch, (s.channel ch).inhibit = false) →
        ∀ a, s.outsideBounds a = true → a ∉ cpuTrapStores → t.load a = s.load a)

/-- Only a trap leaves Problem Program Mode, only PTR and CTR enter it. R524, R502, R522, R523; ComesTo is the chain
of R254 and R255, an instruction that is no XEC coming to itself. That PTR and CTR are restricted is D33 (log
56), what an XEC chain does D43 (log 61), the entry D9 and D10 (logs 31, 57). The semantics of the carried-over
instructions are the spec's from general knowledge (log 60). The locations a trap goes to are open, D3 (log 6). -/
def Obligations.ModeChanges : Prop :=
  ∀ (i : Instr) (s t : State), exec i s = .next t →
    (s.problem = true →
      (t.problem = true ∧ t.compat = s.compat) ∨
        (t.pc ∈ cpuTrapTargets ∧ t.compat = false ∧ t.problem = false ∧ t.ttrap = false)) ∧
    (s.problem = false → t.problem = true ∨ (s.compat = false ∧ t.compat = true) →
      ∃ (u : State) (j : Instr), ComesTo s i u j ∧ ∃ o, j = .ptr o ∨ j = .ctr o)

/-- OV, once on, is turned off only by TOV, TNO and RCPU. R29, R180, R268, R269, R166; ComesTo is the chain of R254
and R255, an instruction that is no XEC coming to itself. What an XEC chain does is D43 (log 61); that floating
point leaves OV is R203's (log 79); RCPU's places are SCPU_LAYOUT (log 8). The semantics of the carried-over
instructions are the spec's from general knowledge (log 60). -/
def Obligations.OverflowStays : Prop :=
  ∀ (i : Instr) (s t : State), exec i s = .next t → s.ov = true → t.ov = false →
    ∃ (u : State) (j : Instr), ComesTo s i u j ∧ ∃ o, j = .tov o ∨ j = .tno o ∨ j = .rcpu o

/-- START, the keys, the switches, attention, and the environment of a channel. R256, R40, R41, R467, R468, R472 a,
R83. The events and their script are the model's (logs 36, 37), what the environment may do log 38, the two
attention bits log 43, a channel handed over while its own sequence goes on log 75. START and the halt are D37
(log 35); a violating store of the environment is D35 (log 50); the environment of a channel is D45. Keys and
switches are D48 (log 71). One pending bit for each channel and kind is D31 (log 47). -/
def Obligations.OutsideEvents : Prop :=
  ∀ (s : State) (rest : List Event),
    (s.script = .start :: rest → step s = .next { s.advance with halted := false }) ∧
    (∀ w, s.script = .keys w :: rest → step s = .next { s.advance with keys := w }) ∧
    (∀ b, s.script = .switches b :: rest → step s = .next { s.advance with switches := b }) ∧
    ∀ (ch : ChannelId) (c : Channel), c = s.channel ch →
      (s.script = .turn (.attention ch) :: rest →
        step s =
          .next (s.advance.setChannel ch
            { c with
              pendingAttention :=
                c.pendingAttention || c.enabled .attentionImmediate || (!c.busy && c.enabled .attentionNotInUse)
              attentionWaiting := c.attentionWaiting || c.busy })) ∧
      ∀ act, s.script = .turn (.environment ch act) :: rest →
        (c.phase ≠ .environment → c.handed = false → step s = .next s.advance) ∧
        (c.phase = .environment ∨ c.handed = true →
          (∀ a w, act = .store a w →
            ∃ t, step s = .next t ∧ OnlyStorage s.advance t ∧
              (c.busy = false ∨ s.channelViolates c.inhibit a = true → SameStorage s t) ∧
              (c.busy = true → s.channelViolates c.inhibit a = false → Stored s t a [w])) ∧
          (act = .endCondition →
            step s = .next (s.advance.setChannel ch { c with pendingEnd := c.pendingEnd || c.enabled .ending })) ∧
          (act = .attention →
            step s =
              .next (s.advance.setChannel ch
                { c with pendingAttention := c.pendingAttention || c.enabled .chain })) ∧
          (∀ r, act = .unusualEnd r →
            step s =
              .next (s.advance.setChannel ch
                { c with
                  pendingUnusual :=
                    c.pendingUnusual ||
                      ((r.dataError || r.exceptional || r.intervention) && c.enabled .unusualEnd) ||
                      (r.incorrectLength && c.enabled .incorrectLength) })) ∧
          (act = .stop ∨ (act = .resume .idle ∧ c.busy = true) →
            step s =
              .next (s.advance.setChannel ch
                { c with
                  phase := .idle, handed := false, attentionWaiting := false
                  pendingAttention :=
                    c.pendingAttention || (c.attentionWaiting && c.enabled .attentionNotInUse) })) ∧
          (∀ p, act = .resume p → p ≠ .idle → c.busy = true →
            step s = .next (s.advance.setChannel ch { c with phase := p, handed := false })) ∧
          (act = .carryOn → step s = .next (s.advance.setChannel ch { c with handed := false })))
end

