-- ==== Sys2Proof/Laws/Fields.lean ====
section
/-! SUPPORT. The field operations and their inverses: halves, sign and magnitude, the parts of an instruction word,
the parts of the accumulator. -/

namespace Sys2Proof.Machine

/-! ## Halves -/

@[simp] theorem leftHalf_joinHalves (l r : Addr) : leftHalf (joinHalves l r) = l := by
  ext i hi
  simp only [leftHalf, joinHalves, BitVec.getElem_extractLsb', BitVec.getLsbD_cast, BitVec.getLsbD_append]
  split_ifs
  · omega
  · rw [← BitVec.getLsbD_eq_getElem]; congr 1; omega

@[simp] theorem rightHalf_joinHalves (l r : Addr) : rightHalf (joinHalves l r) = r := by
  ext i hi
  simp only [rightHalf, joinHalves, BitVec.getElem_extractLsb', BitVec.getLsbD_cast, BitVec.getLsbD_append]
  split_ifs
  · rw [← BitVec.getLsbD_eq_getElem]; congr 1; omega
  · omega

@[simp] theorem joinHalves_halves (w : Word) : joinHalves (leftHalf w) (rightHalf w) = w := by
  ext i hi
  rw [← BitVec.getLsbD_eq_getElem]
  simp only [joinHalves, leftHalf, rightHalf, BitVec.getLsbD_cast, BitVec.getLsbD_append, BitVec.getLsbD_extractLsb']
  split_ifs
  · next h => simp [h, BitVec.getLsbD_eq_getElem hi]
  · rw [show 18 + (i - 18) = i by omega]; simp only [show decide (i - 18 < 18) = true by simp; omega, Bool.true_and]
    exact BitVec.getLsbD_eq_getElem hi

theorem joinHalves_inj {l r l' r' : Addr} : joinHalves l r = joinHalves l' r' ↔ l = l' ∧ r = r' :=
  ⟨fun h => ⟨by simpa using congrArg leftHalf h, by simpa using congrArg rightHalf h⟩, fun ⟨h, g⟩ => by rw [h, g]⟩

/-! ## Sign and magnitude -/

@[simp] theorem signOf_signed (b : Bool) (m : BitVec 35) : signOf (signed b m) = b := by
  simp only [signOf, signed, BitVec.msb_eq_getLsbD_last, BitVec.getLsbD_cast, BitVec.getLsbD_append]
  cases b <;> rfl

@[simp] theorem magnitude_signed (b : Bool) (m : BitVec 35) : magnitude (signed b m) = m := by
  ext i hi
  simp only [magnitude, signed, BitVec.getElem_extractLsb', BitVec.getLsbD_cast, BitVec.getLsbD_append]
  split_ifs
  · rw [← BitVec.getLsbD_eq_getElem]; congr 1; omega
  · omega

@[simp] theorem signed_parts (w : Word) : signed (signOf w) (magnitude w) = w := by
  ext i hi
  rw [← BitVec.getLsbD_eq_getElem]
  simp only [signed, magnitude, signOf, BitVec.getLsbD_cast, BitVec.getLsbD_append, BitVec.getLsbD_extractLsb']
  split_ifs
  · next h => simp [h, BitVec.getLsbD_eq_getElem hi]
  · obtain rfl : i = 35 := by omega
    simp [BitVec.msb_eq_getLsbD_last]

/-! ## The parts of an instruction word -/

@[simp] theorem operationField_assemble (op : BitVec 9) (o : Operand) : operationField (assemble op o) = op := by
  ext i hi
  simp only [operationField, assemble, BitVec.getElem_extractLsb', BitVec.getLsbD_cast, BitVec.getLsbD_append]
  split_ifs <;> first | omega | (rw [← BitVec.getLsbD_eq_getElem]; congr 1; omega)

@[simp] theorem operandField_assemble (op : BitVec 9) (o : Operand) : operandField (assemble op o) = o := by
  obtain ⟨f, t1, t2, y⟩ := o
  simp only [operandField, Operand.mk.injEq]
  refine ⟨?_, ?_, ?_, ?_⟩
  · simp only [assemble, BitVec.getLsbD_cast, BitVec.getLsbD_append]
    cases f <;> rfl
  all_goals
    ext i hi
    simp only [assemble, BitVec.getElem_extractLsb', BitVec.getLsbD_cast, BitVec.getLsbD_append]
    split_ifs <;> first | omega | (rw [← BitVec.getLsbD_eq_getElem]; congr 1; omega)

/-! ## Bit by bit, and as numbers -/

theorem getLsbD_leftHalf (w : Word) (i : Nat) : (leftHalf w).getLsbD i = (decide (i < 18) && w.getLsbD (18 + i)) := by
  simp [leftHalf, BitVec.getLsbD_extractLsb']

theorem getLsbD_rightHalf (w : Word) (i : Nat) : (rightHalf w).getLsbD i = (decide (i < 18) && w.getLsbD i) := by
  simp [rightHalf, BitVec.getLsbD_extractLsb']

theorem getLsbD_joinHalves (l r : Addr) (i : Nat) :
    (joinHalves l r).getLsbD i = if i < 18 then r.getLsbD i else l.getLsbD (i - 18) := by
  rw [joinHalves, BitVec.getLsbD_cast, BitVec.getLsbD_append]

theorem getLsbD_magnitude (w : Word) (i : Nat) : (magnitude w).getLsbD i = (decide (i < 35) && w.getLsbD i) := by
  simp [magnitude, BitVec.getLsbD_extractLsb']

theorem signOf_eq (w : Word) : signOf w = w.getLsbD 35 := by simp [signOf, BitVec.msb_eq_getLsbD_last]

theorem getLsbD_signed (b : Bool) (m : BitVec 35) (i : Nat) :
    (signed b m).getLsbD i = if i < 35 then m.getLsbD i else decide (i = 35) && b := by
  rw [signed, BitVec.getLsbD_cast, BitVec.getLsbD_append, BitVec.getLsbD_ofBool]
  by_cases h : i < 35
  · rw [if_pos h, if_pos h]
  · rw [if_neg h, if_neg h]; congr 1; simp; omega

theorem toNat_append_add {n m : Nat} (x : BitVec n) (y : BitVec m) : (x ++ y).toNat = x.toNat * 2 ^ m + y.toNat := by
  rw [BitVec.toNat_append, ← Nat.shiftLeft_add_eq_or_of_lt y.isLt, Nat.shiftLeft_eq]

theorem joinHalves_toNat (l r : Addr) : (joinHalves l r).toNat = l.toNat * 2 ^ 18 + r.toNat := by
  rw [joinHalves, BitVec.toNat_cast, toNat_append_add]

theorem signed_toNat (b : Bool) (m : BitVec 35) : (signed b m).toNat = b.toNat * 2 ^ 35 + m.toNat := by
  rw [signed, BitVec.toNat_cast, toNat_append_add, BitVec.toNat_ofBool]

theorem leftHalf_toNat (w : Word) : (leftHalf w).toNat = w.toNat / 2 ^ 18 := by
  rw [leftHalf, BitVec.extractLsb'_toNat, Nat.shiftRight_eq_div_pow]; exact Nat.mod_eq_of_lt (by have := w.isLt; omega)

theorem rightHalf_toNat (w : Word) : (rightHalf w).toNat = w.toNat % 2 ^ 18 := by
  simp [rightHalf, BitVec.extractLsb'_toNat]

theorem magnitude_toNat (w : Word) : (magnitude w).toNat = w.toNat % 2 ^ 35 := by
  simp [magnitude, BitVec.extractLsb'_toNat]

end Sys2Proof.Machine

namespace Sys2Proof

open Sys2Proof.Machine

/-! ## The parts of the accumulator -/

@[simp] theorem Acc.make_s (s q p : Bool) (m : BitVec 35) : (Acc.make s q p m).s = s := rfl

@[simp] theorem Acc.make_q (s q p : Bool) (m : BitVec 35) : (Acc.make s q p m).q = q := by
  simp only [Acc.q, Acc.make, BitVec.getLsbD_cast, BitVec.getLsbD_append]; cases q <;> rfl

@[simp] theorem Acc.make_p (s q p : Bool) (m : BitVec 35) : (Acc.make s q p m).p = p := by
  simp only [Acc.p, Acc.make, BitVec.getLsbD_cast, BitVec.getLsbD_append]; cases p <;> rfl

@[simp] theorem Acc.make_mag (s q p : Bool) (m : BitVec 35) : (Acc.make s q p m).mag = m := by
  ext i hi
  simp only [Acc.mag, Acc.make, BitVec.getElem_extractLsb', BitVec.getLsbD_cast, BitVec.getLsbD_append]
  split_ifs <;> first | omega | (rw [← BitVec.getLsbD_eq_getElem]; congr 1; omega)

/-- With Q and P zero the magnitude is that of positions 1-35. -/
theorem Acc.make_m_toNat (s : Bool) (m : BitVec 35) : (Acc.make s false false m).m.toNat = m.toNat := by
  simp only [Acc.make, BitVec.toNat_cast, BitVec.toNat_append, BitVec.toNat_ofBool]
  simp

@[simp] theorem Acc.ofSigned_s (w : Word) : (Acc.ofSigned w).s = signOf w := rfl
@[simp] theorem Acc.ofSigned_q (w : Word) : (Acc.ofSigned w).q = false := by simp [Acc.ofSigned]
@[simp] theorem Acc.ofSigned_p (w : Word) : (Acc.ofSigned w).p = false := by simp [Acc.ofSigned]
@[simp] theorem Acc.ofSigned_mag (w : Word) : (Acc.ofSigned w).mag = magnitude w := by simp [Acc.ofSigned]
@[simp] theorem Acc.ofSigned_signedWord (w : Word) : (Acc.ofSigned w).signedWord = w := by
  simp [Acc.signedWord]
@[simp] theorem Acc.ofLogical_s (w : Word) : (Acc.ofLogical w).s = false := rfl

@[simp] theorem Acc.ofLogical_q (w : Word) : (Acc.ofLogical w).q = false := by
  simp only [Acc.q, Acc.ofLogical, BitVec.getLsbD_cast, BitVec.getLsbD_append]; rfl

@[simp] theorem Acc.ofLogical_logical (w : Word) : (Acc.ofLogical w).logical = w := by
  ext i hi
  simp only [Acc.logical, Acc.ofLogical, BitVec.getElem_extractLsb', BitVec.getLsbD_cast, BitVec.getLsbD_append]
  split_ifs <;> first | omega | (rw [← BitVec.getLsbD_eq_getElem]; congr 1; omega)

@[simp] theorem Acc.withLogical_s (a : Acc) (w : Word) : (a.withLogical w).s = a.s := rfl

@[simp] theorem Acc.withLogical_q (a : Acc) (w : Word) : (a.withLogical w).q = a.q := by
  simp only [Acc.withLogical, Acc.q, BitVec.getLsbD_cast, BitVec.getLsbD_append]
  cases h : a.m.getLsbD 36 <;> simp

@[simp] theorem Acc.withLogical_logical (a : Acc) (w : Word) : (a.withLogical w).logical = w := by
  ext i hi
  simp only [Acc.logical, Acc.withLogical, BitVec.getElem_extractLsb', BitVec.getLsbD_cast, BitVec.getLsbD_append]
  split_ifs <;> first | omega | (rw [← BitVec.getLsbD_eq_getElem]; congr 1; omega)

/-! ## The accumulator bit by bit, and as a number -/

theorem Acc.getLsbD_mag (a : Acc) (i : Nat) : a.mag.getLsbD i = (decide (i < 35) && a.m.getLsbD i) := by
  simp [Acc.mag, BitVec.getLsbD_extractLsb']

theorem Acc.getLsbD_logical (a : Acc) (i : Nat) : a.logical.getLsbD i = (decide (i < 36) && a.m.getLsbD i) := by
  simp [Acc.logical, BitVec.getLsbD_extractLsb']

theorem Acc.getLsbD_make (s q p : Bool) (m : BitVec 35) (i : Nat) :
    (Acc.make s q p m).m.getLsbD i = if i < 35 then m.getLsbD i else if i = 35 then p else decide (i = 36) && q := by
  rw [Acc.make, BitVec.getLsbD_cast, BitVec.getLsbD_append, BitVec.getLsbD_append, BitVec.getLsbD_ofBool, BitVec.getLsbD_ofBool]
  by_cases h : i < 35
  · rw [if_pos h, if_pos h]
  · rw [if_neg h, if_neg h]
    by_cases h1 : i = 35
    · subst h1; simp
    · rw [if_neg h1, if_neg (by omega)]; congr 1; simp; omega

theorem Acc.getLsbD_ofLogical (w : Word) (i : Nat) : (Acc.ofLogical w).m.getLsbD i = w.getLsbD i := by
  rw [Acc.ofLogical, BitVec.getLsbD_cast, BitVec.getLsbD_append]
  split
  · rfl
  · rw [BitVec.getLsbD_of_ge w i (by omega)]; simp

theorem Acc.ext_m {a b : Acc} (hs : a.s = b.s) (h : ∀ i, i < 37 → a.m.getLsbD i = b.m.getLsbD i) : a = b := by
  cases a; cases b; congr; exact BitVec.eq_of_getLsbD_eq h

theorem Acc.ofLogical_eq (w : Word) : Acc.ofLogical w = Acc.make false false (signOf w) (magnitude w) := by
  refine Acc.ext_m rfl fun i hi => ?_
  rw [getLsbD_ofLogical, getLsbD_make, getLsbD_magnitude, signOf_eq]
  split_ifs with h1 h2
  · simp [h1]
  · rw [h2]
  · simp; exact BitVec.getLsbD_of_ge _ _ (by omega)

theorem Acc.logical_eq (a : Acc) : a.logical = signed a.p a.mag := by
  apply BitVec.eq_of_getLsbD_eq
  intro i hi
  rw [getLsbD_logical, getLsbD_signed, getLsbD_mag, Acc.p]
  split_ifs with h
  · simp [h, hi]
  · obtain rfl : i = 35 := by omega
    rfl

theorem Acc.make_parts (a : Acc) : Acc.make a.s a.q a.p a.mag = a := by
  refine Acc.ext_m rfl fun i hi => ?_
  rw [getLsbD_make, getLsbD_mag, Acc.q, Acc.p]
  split_ifs with h1 h2
  · simp [h1]
  · rw [h2]
  · obtain rfl : i = 36 := by omega
    rfl

theorem Acc.make_toNat (s q p : Bool) (m : BitVec 35) :
    (Acc.make s q p m).m.toNat = q.toNat * 2 ^ 36 + p.toNat * 2 ^ 35 + m.toNat := by
  rw [Acc.make, BitVec.toNat_cast, toNat_append_add, toNat_append_add, BitVec.toNat_ofBool, BitVec.toNat_ofBool]
  omega

theorem Acc.m_toNat (a : Acc) : a.m.toNat = a.q.toNat * 2 ^ 36 + a.p.toNat * 2 ^ 35 + a.mag.toNat := by
  rw [← Acc.make_toNat a.s, a.make_parts]

theorem Acc.logical_toNat (a : Acc) : a.logical.toNat = a.m.toNat % 2 ^ 36 := by
  simp [Acc.logical, BitVec.extractLsb'_toNat]

theorem Acc.mag_toNat (a : Acc) : a.mag.toNat = a.m.toNat % 2 ^ 35 := by
  simp [Acc.mag, BitVec.extractLsb'_toNat]

theorem Acc.ofLogical_toNat (w : Word) : (Acc.ofLogical w).m.toNat = w.toNat := by
  rw [Acc.ofLogical, BitVec.toNat_cast, toNat_append_add]; simp

theorem Acc.withLogical_toNat (a : Acc) (w : Word) : (a.withLogical w).m.toNat = a.q.toNat * 2 ^ 36 + w.toNat := by
  rw [Acc.withLogical, BitVec.toNat_cast, toNat_append_add, BitVec.toNat_ofBool]

end Sys2Proof
end

