-- ==== Sys2Proof/Laws/Memory.lean ====
section
/-! SUPPORT. Storage: read after write, and the canonical form under every operation that writes. -/

namespace Sys2Proof.Machine

/-! ## Read after write -/

@[simp] theorem Memory.read_write_same (m : Memory) (a : Nat) (w : Word) : (m.write a w).read a = some w := by
  induction m with
  | nil => simp [Memory.write, Memory.read]
  | cons e m ih =>
    obtain ⟨x, v⟩ := e
    simp only [Memory.write]
    split
    · simp [Memory.read]
    · split
      · simp [Memory.read]
      · simp [Memory.read, *]

@[simp] theorem Memory.read_write_of_ne (m : Memory) {a i : Nat} (w : Word) (h : i ≠ a) :
    (m.write a w).read i = m.read i := by
  induction m with
  | nil => simp [Memory.write, Memory.read, h]
  | cons e m ih =>
    obtain ⟨x, v⟩ := e
    simp only [Memory.write]
    split
    · simp [Memory.read, h]
    · split
      · next hx => subst hx; simp [Memory.read, h]
      · simp only [Memory.read, ih]

@[simp] theorem State.load_poke_same (s : State) (a : Addr) (w : Word) : (s.poke a w).load a = some w := by
  simp [State.load, State.poke]

theorem State.load_poke_of_ne (s : State) {a i : Addr} (w : Word) (h : i ≠ a) :
    (s.poke a w).load i = s.load i := by
  have : i.toNat ≠ a.toNat := fun e => h (BitVec.eq_of_toNat_eq e)
  simp [State.load, State.poke, this]

theorem State.load_poke (s : State) (a i : Addr) (w : Word) :
    (s.poke a w).load i = if i = a then some w else s.load i := by
  split
  · next h => subst h; simp
  · next h => exact s.load_poke_of_ne w h

/-! ## The canonical form -/

theorem Memory.risesFrom_mono {m : Memory} {lo lo' : Nat} (h : lo' ≤ lo) (hm : m.risesFrom lo = true) :
    m.risesFrom lo' = true := by
  cases m with
  | nil => rfl
  | cons e m =>
    obtain ⟨x, v⟩ := e
    simp only [Memory.risesFrom, Bool.and_eq_true, decide_eq_true_eq] at *
    exact ⟨⟨by omega, hm.1.2⟩, hm.2⟩

theorem Memory.risesFrom_write {m : Memory} {lo a : Nat} (w : Word) (hlo : lo ≤ a) (ha : a < 2 ^ 18)
    (hm : m.risesFrom lo = true) : (m.write a w).risesFrom lo = true := by
  induction m generalizing lo with
  | nil => simp only [Memory.write, Memory.risesFrom, Bool.and_eq_true, decide_eq_true_eq]; exact ⟨⟨hlo, ha⟩, trivial⟩
  | cons e m ih =>
    obtain ⟨x, v⟩ := e
    simp only [Memory.risesFrom, Bool.and_eq_true, decide_eq_true_eq] at hm
    simp only [Memory.write]
    split
    · simp only [Memory.risesFrom, Bool.and_eq_true, decide_eq_true_eq]
      exact ⟨⟨hlo, ha⟩, ⟨by omega, hm.1.2⟩, hm.2⟩
    · split
      · next h =>
        subst h
        simp only [Memory.risesFrom, Bool.and_eq_true, decide_eq_true_eq]
        exact ⟨⟨hlo, ha⟩, hm.2⟩
      · simp only [Memory.risesFrom, Bool.and_eq_true, decide_eq_true_eq]
        exact ⟨hm.1, ih (by omega) hm.2⟩

/-- A write of storage keeps the canonical form. -/
theorem Memory.wf_write {m : Memory} {a : Nat} (w : Word) (ha : a < 2 ^ 18) (hm : m.wf = true) :
    (m.write a w).wf = true := Memory.risesFrom_write w (Nat.zero_le _) ha hm

/-- Storage right after reset is canonical. -/
theorem State.wf_reset : State.reset.wf = true := rfl

theorem State.wf_poke {s : State} (a : Addr) (w : Word) (h : s.wf = true) : (s.poke a w).wf = true :=
  Memory.wf_write w a.isLt h

theorem State.wf_of_mem {s t : State} (h : t.mem = s.mem) : t.wf = s.wf := by simp [State.wf, h]

theorem State.wf_channelStore {s : State} (b : Bool) (a : Addr) (w : Word) (h : s.wf = true) :
    (s.channelStore b a w).wf = true := by
  unfold State.channelStore; split
  · exact h
  · exact s.wf_poke a w h

theorem State.wf_storeFor {s : State} (ch : ChannelId) (b : Bool) (a : Addr) (w : Word) (h : s.wf = true) :
    (s.storeFor ch b a w).wf = true := by
  unfold State.storeFor; split
  · exact h
  · exact s.wf_poke a w h

theorem State.wf_pokes (l : List (Addr × Word)) {s : State} (h : s.wf = true) : (s.pokes l).wf = true := by
  induction l generalizing s with
  | nil => exact h
  | cons e l ih => exact ih (s.wf_poke _ _ h)

/-- Taking a CPU trap keeps the canonical form. -/
theorem State.wf_takeTrap {s : State} (t : CpuTrap) (h : s.wf = true) : (takeTrap t s).wf = true :=
  State.wf_pokes (t.stores s) h

theorem State.wf_enterChannelTrap (s : State) (ch : ChannelId) (k : TrapKind) :
    (s.enterChannelTrap ch k).wf = s.wf := rfl

theorem State.wf_setChannel (s : State) (ch : ChannelId) (c : Channel) : (s.setChannel ch c).wf = s.wf := rfl

/-- Taking a channel trap keeps the canonical form. -/
theorem State.wf_takeChannelTrap {s : State} (ch : ChannelId) (k : TrapKind) (h : s.wf = true) :
    (takeChannelTrap ch k s).wf = true := by
  rw [takeChannelTrap, State.wf_enterChannelTrap]
  exact State.wf_pokes _ ((State.wf_setChannel s ch _).trans h)

/-- The store of CTR keeps the canonical form. -/
theorem State.wf_returnFromChannelTrap {s : State} (w : Word) (h : s.wf = true) :
    (returnFromChannelTrap w s).wf = true :=
  State.wf_poke (s := { s.loadModes (leftHalf w) with pc := rightHalf w, cti := false }) _ _ h

/-- Placing an instruction keeps the canonical form. -/
theorem State.wf_withFetchWord {s : State} (nbits w : Nat) (h : s.wf = true) :
    (s.withFetchWord nbits w).wf = true := s.wf_poke _ _ h

end Sys2Proof.Machine
end

