-- ==== Sys2Proof/Laws/State.lean ====
section
/-! SUPPORT. What each update of the state leaves: one lemma per field per update. -/

namespace Sys2Proof.Machine

variable (s : State)

/-- A list of stores changes storage alone. -/
theorem State.pokes_eq (l : List (Addr × Word)) : s.pokes l = { s with mem := (s.pokes l).mem } := by
  induction l generalizing s with
  | nil => rfl
  | cons e l ih => exact ih (s.poke e.1 e.2)

/-! ## `poke` -/

@[simp] theorem State.poke_ac (a : Addr) (w : Word) : (s.poke a w).ac = s.ac := rfl
@[simp] theorem State.poke_mq (a : Addr) (w : Word) : (s.poke a w).mq = s.mq := rfl
@[simp] theorem State.poke_si (a : Addr) (w : Word) : (s.poke a w).si = s.si := rfl
@[simp] theorem State.poke_xr (a : Addr) (w : Word) : (s.poke a w).xr = s.xr := rfl
@[simp] theorem State.poke_pc (a : Addr) (w : Word) : (s.poke a w).pc = s.pc := rfl
@[simp] theorem State.poke_il (a : Addr) (w : Word) : (s.poke a w).il = s.il := rfl
@[simp] theorem State.poke_ov (a : Addr) (w : Word) : (s.poke a w).ov = s.ov := rfl
@[simp] theorem State.poke_ixh (a : Addr) (w : Word) : (s.poke a w).ixh = s.ixh := rfl
@[simp] theorem State.poke_ixl (a : Addr) (w : Word) : (s.poke a w).ixl = s.ixl := rfl
@[simp] theorem State.poke_ixe (a : Addr) (w : Word) : (s.poke a w).ixe = s.ixe := rfl
@[simp] theorem State.poke_lights (a : Addr) (w : Word) : (s.poke a w).lights = s.lights := rfl
@[simp] theorem State.poke_keys (a : Addr) (w : Word) : (s.poke a w).keys = s.keys := rfl
@[simp] theorem State.poke_switches (a : Addr) (w : Word) : (s.poke a w).switches = s.switches := rfl
@[simp] theorem State.poke_compat (a : Addr) (w : Word) : (s.poke a w).compat = s.compat := rfl
@[simp] theorem State.poke_problem (a : Addr) (w : Word) : (s.poke a w).problem = s.problem := rfl
@[simp] theorem State.poke_ttrap (a : Addr) (w : Word) : (s.poke a w).ttrap = s.ttrap := rfl
@[simp] theorem State.poke_halted (a : Addr) (w : Word) : (s.poke a w).halted = s.halted := rfl
@[simp] theorem State.poke_hpr (a : Addr) (w : Word) : (s.poke a w).hpr = s.hpr := rfl
@[simp] theorem State.poke_lpr (a : Addr) (w : Word) : (s.poke a w).lpr = s.lpr := rfl
@[simp] theorem State.poke_car (a : Addr) (w : Word) : (s.poke a w).car = s.car := rfl
@[simp] theorem State.poke_cti (a : Addr) (w : Word) : (s.poke a w).cti = s.cti := rfl
@[simp] theorem State.poke_ictMask (a : Addr) (w : Word) : (s.poke a w).ictMask = s.ictMask := rfl
@[simp] theorem State.poke_channels (a : Addr) (w : Word) : (s.poke a w).channels = s.channels := rfl
@[simp] theorem State.poke_acting (a : Addr) (w : Word) : (s.poke a w).acting = s.acting := rfl
@[simp] theorem State.poke_script (a : Addr) (w : Word) : (s.poke a w).script = s.script := rfl
@[simp] theorem State.poke_outbox (a : Addr) (w : Word) : (s.poke a w).outbox = s.outbox := rfl
@[simp] theorem State.poke_tick (a : Addr) (w : Word) : (s.poke a w).tick = s.tick := rfl
@[simp] theorem State.poke_inside (a : Addr) (w : Word) : (s.poke a w).inside = s.inside := rfl

/-! ## `skip` -/

@[simp] theorem State.skip_ac (n : Addr) : (s.skip n).ac = s.ac := rfl
@[simp] theorem State.skip_mq (n : Addr) : (s.skip n).mq = s.mq := rfl
@[simp] theorem State.skip_si (n : Addr) : (s.skip n).si = s.si := rfl
@[simp] theorem State.skip_xr (n : Addr) : (s.skip n).xr = s.xr := rfl
@[simp] theorem State.skip_il (n : Addr) : (s.skip n).il = s.il := rfl
@[simp] theorem State.skip_ov (n : Addr) : (s.skip n).ov = s.ov := rfl
@[simp] theorem State.skip_ixh (n : Addr) : (s.skip n).ixh = s.ixh := rfl
@[simp] theorem State.skip_ixl (n : Addr) : (s.skip n).ixl = s.ixl := rfl
@[simp] theorem State.skip_ixe (n : Addr) : (s.skip n).ixe = s.ixe := rfl
@[simp] theorem State.skip_lights (n : Addr) : (s.skip n).lights = s.lights := rfl
@[simp] theorem State.skip_keys (n : Addr) : (s.skip n).keys = s.keys := rfl
@[simp] theorem State.skip_switches (n : Addr) : (s.skip n).switches = s.switches := rfl
@[simp] theorem State.skip_compat (n : Addr) : (s.skip n).compat = s.compat := rfl
@[simp] theorem State.skip_problem (n : Addr) : (s.skip n).problem = s.problem := rfl
@[simp] theorem State.skip_ttrap (n : Addr) : (s.skip n).ttrap = s.ttrap := rfl
@[simp] theorem State.skip_halted (n : Addr) : (s.skip n).halted = s.halted := rfl
@[simp] theorem State.skip_hpr (n : Addr) : (s.skip n).hpr = s.hpr := rfl
@[simp] theorem State.skip_lpr (n : Addr) : (s.skip n).lpr = s.lpr := rfl
@[simp] theorem State.skip_car (n : Addr) : (s.skip n).car = s.car := rfl
@[simp] theorem State.skip_cti (n : Addr) : (s.skip n).cti = s.cti := rfl
@[simp] theorem State.skip_ictMask (n : Addr) : (s.skip n).ictMask = s.ictMask := rfl
@[simp] theorem State.skip_channels (n : Addr) : (s.skip n).channels = s.channels := rfl
@[simp] theorem State.skip_mem (n : Addr) : (s.skip n).mem = s.mem := rfl
@[simp] theorem State.skip_acting (n : Addr) : (s.skip n).acting = s.acting := rfl
@[simp] theorem State.skip_script (n : Addr) : (s.skip n).script = s.script := rfl
@[simp] theorem State.skip_outbox (n : Addr) : (s.skip n).outbox = s.outbox := rfl
@[simp] theorem State.skip_tick (n : Addr) : (s.skip n).tick = s.tick := rfl
@[simp] theorem State.skip_inside (n : Addr) : (s.skip n).inside = s.inside := rfl

/-! ## `setChannel` -/

@[simp] theorem State.setChannel_ac (ch : ChannelId) (c : Channel) : (s.setChannel ch c).ac = s.ac := rfl
@[simp] theorem State.setChannel_mq (ch : ChannelId) (c : Channel) : (s.setChannel ch c).mq = s.mq := rfl
@[simp] theorem State.setChannel_si (ch : ChannelId) (c : Channel) : (s.setChannel ch c).si = s.si := rfl
@[simp] theorem State.setChannel_xr (ch : ChannelId) (c : Channel) : (s.setChannel ch c).xr = s.xr := rfl
@[simp] theorem State.setChannel_pc (ch : ChannelId) (c : Channel) : (s.setChannel ch c).pc = s.pc := rfl
@[simp] theorem State.setChannel_il (ch : ChannelId) (c : Channel) : (s.setChannel ch c).il = s.il := rfl
@[simp] theorem State.setChannel_ov (ch : ChannelId) (c : Channel) : (s.setChannel ch c).ov = s.ov := rfl
@[simp] theorem State.setChannel_ixh (ch : ChannelId) (c : Channel) : (s.setChannel ch c).ixh = s.ixh := rfl
@[simp] theorem State.setChannel_ixl (ch : ChannelId) (c : Channel) : (s.setChannel ch c).ixl = s.ixl := rfl
@[simp] theorem State.setChannel_ixe (ch : ChannelId) (c : Channel) : (s.setChannel ch c).ixe = s.ixe := rfl
@[simp] theorem State.setChannel_lights (ch : ChannelId) (c : Channel) : (s.setChannel ch c).lights = s.lights := rfl
@[simp] theorem State.setChannel_keys (ch : ChannelId) (c : Channel) : (s.setChannel ch c).keys = s.keys := rfl
@[simp] theorem State.setChannel_switches (ch : ChannelId) (c : Channel) : (s.setChannel ch c).switches = s.switches :=
  rfl
@[simp] theorem State.setChannel_compat (ch : ChannelId) (c : Channel) : (s.setChannel ch c).compat = s.compat := rfl
@[simp] theorem State.setChannel_problem (ch : ChannelId) (c : Channel) : (s.setChannel ch c).problem = s.problem :=
  rfl
@[simp] theorem State.setChannel_ttrap (ch : ChannelId) (c : Channel) : (s.setChannel ch c).ttrap = s.ttrap := rfl
@[simp] theorem State.setChannel_halted (ch : ChannelId) (c : Channel) : (s.setChannel ch c).halted = s.halted := rfl
@[simp] theorem State.setChannel_hpr (ch : ChannelId) (c : Channel) : (s.setChannel ch c).hpr = s.hpr := rfl
@[simp] theorem State.setChannel_lpr (ch : ChannelId) (c : Channel) : (s.setChannel ch c).lpr = s.lpr := rfl
@[simp] theorem State.setChannel_car (ch : ChannelId) (c : Channel) : (s.setChannel ch c).car = s.car := rfl
@[simp] theorem State.setChannel_cti (ch : ChannelId) (c : Channel) : (s.setChannel ch c).cti = s.cti := rfl
@[simp] theorem State.setChannel_ictMask (ch : ChannelId) (c : Channel) : (s.setChannel ch c).ictMask = s.ictMask :=
  rfl
@[simp] theorem State.setChannel_mem (ch : ChannelId) (c : Channel) : (s.setChannel ch c).mem = s.mem := rfl
@[simp] theorem State.setChannel_acting (ch : ChannelId) (c : Channel) : (s.setChannel ch c).acting = s.acting := rfl
@[simp] theorem State.setChannel_script (ch : ChannelId) (c : Channel) : (s.setChannel ch c).script = s.script := rfl
@[simp] theorem State.setChannel_outbox (ch : ChannelId) (c : Channel) : (s.setChannel ch c).outbox = s.outbox := rfl
@[simp] theorem State.setChannel_tick (ch : ChannelId) (c : Channel) : (s.setChannel ch c).tick = s.tick := rfl
@[simp] theorem State.setChannel_inside (ch : ChannelId) (c : Channel) : (s.setChannel ch c).inside = s.inside := rfl

/-! ## `loadModes` -/

@[simp] theorem State.loadModes_ac (h : Addr) : (s.loadModes h).ac = s.ac := rfl
@[simp] theorem State.loadModes_mq (h : Addr) : (s.loadModes h).mq = s.mq := rfl
@[simp] theorem State.loadModes_si (h : Addr) : (s.loadModes h).si = s.si := rfl
@[simp] theorem State.loadModes_xr (h : Addr) : (s.loadModes h).xr = s.xr := rfl
@[simp] theorem State.loadModes_pc (h : Addr) : (s.loadModes h).pc = s.pc := rfl
@[simp] theorem State.loadModes_il (h : Addr) : (s.loadModes h).il = s.il := rfl
@[simp] theorem State.loadModes_ov (h : Addr) : (s.loadModes h).ov = s.ov := rfl
@[simp] theorem State.loadModes_ixh (h : Addr) : (s.loadModes h).ixh = s.ixh := rfl
@[simp] theorem State.loadModes_ixl (h : Addr) : (s.loadModes h).ixl = s.ixl := rfl
@[simp] theorem State.loadModes_ixe (h : Addr) : (s.loadModes h).ixe = s.ixe := rfl
@[simp] theorem State.loadModes_lights (h : Addr) : (s.loadModes h).lights = s.lights := rfl
@[simp] theorem State.loadModes_keys (h : Addr) : (s.loadModes h).keys = s.keys := rfl
@[simp] theorem State.loadModes_switches (h : Addr) : (s.loadModes h).switches = s.switches := rfl
@[simp] theorem State.loadModes_halted (h : Addr) : (s.loadModes h).halted = s.halted := rfl
@[simp] theorem State.loadModes_hpr (h : Addr) : (s.loadModes h).hpr = s.hpr := rfl
@[simp] theorem State.loadModes_lpr (h : Addr) : (s.loadModes h).lpr = s.lpr := rfl
@[simp] theorem State.loadModes_car (h : Addr) : (s.loadModes h).car = s.car := rfl
@[simp] theorem State.loadModes_cti (h : Addr) : (s.loadModes h).cti = s.cti := rfl
@[simp] theorem State.loadModes_ictMask (h : Addr) : (s.loadModes h).ictMask = s.ictMask := rfl
@[simp] theorem State.loadModes_channels (h : Addr) : (s.loadModes h).channels = s.channels := rfl
@[simp] theorem State.loadModes_mem (h : Addr) : (s.loadModes h).mem = s.mem := rfl
@[simp] theorem State.loadModes_acting (h : Addr) : (s.loadModes h).acting = s.acting := rfl
@[simp] theorem State.loadModes_script (h : Addr) : (s.loadModes h).script = s.script := rfl
@[simp] theorem State.loadModes_outbox (h : Addr) : (s.loadModes h).outbox = s.outbox := rfl
@[simp] theorem State.loadModes_tick (h : Addr) : (s.loadModes h).tick = s.tick := rfl
@[simp] theorem State.loadModes_inside (h : Addr) : (s.loadModes h).inside = s.inside := rfl

/-! ## `clearModes` -/

@[simp] theorem State.clearModes_ac : (s.clearModes).ac = s.ac := rfl
@[simp] theorem State.clearModes_mq : (s.clearModes).mq = s.mq := rfl
@[simp] theorem State.clearModes_si : (s.clearModes).si = s.si := rfl
@[simp] theorem State.clearModes_xr : (s.clearModes).xr = s.xr := rfl
@[simp] theorem State.clearModes_pc : (s.clearModes).pc = s.pc := rfl
@[simp] theorem State.clearModes_il : (s.clearModes).il = s.il := rfl
@[simp] theorem State.clearModes_ov : (s.clearModes).ov = s.ov := rfl
@[simp] theorem State.clearModes_ixh : (s.clearModes).ixh = s.ixh := rfl
@[simp] theorem State.clearModes_ixl : (s.clearModes).ixl = s.ixl := rfl
@[simp] theorem State.clearModes_ixe : (s.clearModes).ixe = s.ixe := rfl
@[simp] theorem State.clearModes_lights : (s.clearModes).lights = s.lights := rfl
@[simp] theorem State.clearModes_keys : (s.clearModes).keys = s.keys := rfl
@[simp] theorem State.clearModes_switches : (s.clearModes).switches = s.switches := rfl
@[simp] theorem State.clearModes_halted : (s.clearModes).halted = s.halted := rfl
@[simp] theorem State.clearModes_hpr : (s.clearModes).hpr = s.hpr := rfl
@[simp] theorem State.clearModes_lpr : (s.clearModes).lpr = s.lpr := rfl
@[simp] theorem State.clearModes_car : (s.clearModes).car = s.car := rfl
@[simp] theorem State.clearModes_cti : (s.clearModes).cti = s.cti := rfl
@[simp] theorem State.clearModes_ictMask : (s.clearModes).ictMask = s.ictMask := rfl
@[simp] theorem State.clearModes_channels : (s.clearModes).channels = s.channels := rfl
@[simp] theorem State.clearModes_mem : (s.clearModes).mem = s.mem := rfl
@[simp] theorem State.clearModes_acting : (s.clearModes).acting = s.acting := rfl
@[simp] theorem State.clearModes_script : (s.clearModes).script = s.script := rfl
@[simp] theorem State.clearModes_outbox : (s.clearModes).outbox = s.outbox := rfl
@[simp] theorem State.clearModes_tick : (s.clearModes).tick = s.tick := rfl
@[simp] theorem State.clearModes_inside : (s.clearModes).inside = s.inside := rfl

/-! ## `enterAt` -/

@[simp] theorem State.enterAt_ac (a : Addr) : (s.enterAt a).ac = s.ac := rfl
@[simp] theorem State.enterAt_mq (a : Addr) : (s.enterAt a).mq = s.mq := rfl
@[simp] theorem State.enterAt_si (a : Addr) : (s.enterAt a).si = s.si := rfl
@[simp] theorem State.enterAt_xr (a : Addr) : (s.enterAt a).xr = s.xr := rfl
@[simp] theorem State.enterAt_il (a : Addr) : (s.enterAt a).il = s.il := rfl
@[simp] theorem State.enterAt_ov (a : Addr) : (s.enterAt a).ov = s.ov := rfl
@[simp] theorem State.enterAt_ixh (a : Addr) : (s.enterAt a).ixh = s.ixh := rfl
@[simp] theorem State.enterAt_ixl (a : Addr) : (s.enterAt a).ixl = s.ixl := rfl
@[simp] theorem State.enterAt_ixe (a : Addr) : (s.enterAt a).ixe = s.ixe := rfl
@[simp] theorem State.enterAt_lights (a : Addr) : (s.enterAt a).lights = s.lights := rfl
@[simp] theorem State.enterAt_keys (a : Addr) : (s.enterAt a).keys = s.keys := rfl
@[simp] theorem State.enterAt_switches (a : Addr) : (s.enterAt a).switches = s.switches := rfl
@[simp] theorem State.enterAt_halted (a : Addr) : (s.enterAt a).halted = s.halted := rfl
@[simp] theorem State.enterAt_hpr (a : Addr) : (s.enterAt a).hpr = s.hpr := rfl
@[simp] theorem State.enterAt_lpr (a : Addr) : (s.enterAt a).lpr = s.lpr := rfl
@[simp] theorem State.enterAt_car (a : Addr) : (s.enterAt a).car = s.car := rfl
@[simp] theorem State.enterAt_cti (a : Addr) : (s.enterAt a).cti = s.cti := rfl
@[simp] theorem State.enterAt_ictMask (a : Addr) : (s.enterAt a).ictMask = s.ictMask := rfl
@[simp] theorem State.enterAt_channels (a : Addr) : (s.enterAt a).channels = s.channels := rfl
@[simp] theorem State.enterAt_mem (a : Addr) : (s.enterAt a).mem = s.mem := rfl
@[simp] theorem State.enterAt_acting (a : Addr) : (s.enterAt a).acting = s.acting := rfl
@[simp] theorem State.enterAt_script (a : Addr) : (s.enterAt a).script = s.script := rfl
@[simp] theorem State.enterAt_outbox (a : Addr) : (s.enterAt a).outbox = s.outbox := rfl
@[simp] theorem State.enterAt_tick (a : Addr) : (s.enterAt a).tick = s.tick := rfl
@[simp] theorem State.enterAt_inside (a : Addr) : (s.enterAt a).inside = s.inside := rfl

/-! ## `handOver` -/

@[simp] theorem State.handOver_ac (ch : ChannelId) : (s.handOver ch).ac = s.ac := rfl
@[simp] theorem State.handOver_mq (ch : ChannelId) : (s.handOver ch).mq = s.mq := rfl
@[simp] theorem State.handOver_si (ch : ChannelId) : (s.handOver ch).si = s.si := rfl
@[simp] theorem State.handOver_xr (ch : ChannelId) : (s.handOver ch).xr = s.xr := rfl
@[simp] theorem State.handOver_pc (ch : ChannelId) : (s.handOver ch).pc = s.pc := rfl
@[simp] theorem State.handOver_il (ch : ChannelId) : (s.handOver ch).il = s.il := rfl
@[simp] theorem State.handOver_ov (ch : ChannelId) : (s.handOver ch).ov = s.ov := rfl
@[simp] theorem State.handOver_ixh (ch : ChannelId) : (s.handOver ch).ixh = s.ixh := rfl
@[simp] theorem State.handOver_ixl (ch : ChannelId) : (s.handOver ch).ixl = s.ixl := rfl
@[simp] theorem State.handOver_ixe (ch : ChannelId) : (s.handOver ch).ixe = s.ixe := rfl
@[simp] theorem State.handOver_lights (ch : ChannelId) : (s.handOver ch).lights = s.lights := rfl
@[simp] theorem State.handOver_keys (ch : ChannelId) : (s.handOver ch).keys = s.keys := rfl
@[simp] theorem State.handOver_switches (ch : ChannelId) : (s.handOver ch).switches = s.switches := rfl
@[simp] theorem State.handOver_compat (ch : ChannelId) : (s.handOver ch).compat = s.compat := rfl
@[simp] theorem State.handOver_problem (ch : ChannelId) : (s.handOver ch).problem = s.problem := rfl
@[simp] theorem State.handOver_ttrap (ch : ChannelId) : (s.handOver ch).ttrap = s.ttrap := rfl
@[simp] theorem State.handOver_halted (ch : ChannelId) : (s.handOver ch).halted = s.halted := rfl
@[simp] theorem State.handOver_hpr (ch : ChannelId) : (s.handOver ch).hpr = s.hpr := rfl
@[simp] theorem State.handOver_lpr (ch : ChannelId) : (s.handOver ch).lpr = s.lpr := rfl
@[simp] theorem State.handOver_car (ch : ChannelId) : (s.handOver ch).car = s.car := rfl
@[simp] theorem State.handOver_cti (ch : ChannelId) : (s.handOver ch).cti = s.cti := rfl
@[simp] theorem State.handOver_ictMask (ch : ChannelId) : (s.handOver ch).ictMask = s.ictMask := rfl
@[simp] theorem State.handOver_mem (ch : ChannelId) : (s.handOver ch).mem = s.mem := rfl
@[simp] theorem State.handOver_acting (ch : ChannelId) : (s.handOver ch).acting = s.acting := rfl
@[simp] theorem State.handOver_script (ch : ChannelId) : (s.handOver ch).script = s.script := rfl
@[simp] theorem State.handOver_outbox (ch : ChannelId) : (s.handOver ch).outbox = s.outbox := rfl
@[simp] theorem State.handOver_tick (ch : ChannelId) : (s.handOver ch).tick = s.tick := rfl
@[simp] theorem State.handOver_inside (ch : ChannelId) : (s.handOver ch).inside = s.inside := rfl

/-! ## `channelStore` -/

@[simp] theorem State.channelStore_ac (b : Bool) (a : Addr) (w : Word) : (s.channelStore b a w).ac = s.ac := by
  unfold State.channelStore; split <;> rfl
@[simp] theorem State.channelStore_mq (b : Bool) (a : Addr) (w : Word) : (s.channelStore b a w).mq = s.mq := by
  unfold State.channelStore; split <;> rfl
@[simp] theorem State.channelStore_si (b : Bool) (a : Addr) (w : Word) : (s.channelStore b a w).si = s.si := by
  unfold State.channelStore; split <;> rfl
@[simp] theorem State.channelStore_xr (b : Bool) (a : Addr) (w : Word) : (s.channelStore b a w).xr = s.xr := by
  unfold State.channelStore; split <;> rfl
@[simp] theorem State.channelStore_pc (b : Bool) (a : Addr) (w : Word) : (s.channelStore b a w).pc = s.pc := by
  unfold State.channelStore; split <;> rfl
@[simp] theorem State.channelStore_il (b : Bool) (a : Addr) (w : Word) : (s.channelStore b a w).il = s.il := by
  unfold State.channelStore; split <;> rfl
@[simp] theorem State.channelStore_ov (b : Bool) (a : Addr) (w : Word) : (s.channelStore b a w).ov = s.ov := by
  unfold State.channelStore; split <;> rfl
@[simp] theorem State.channelStore_ixh (b : Bool) (a : Addr) (w : Word) : (s.channelStore b a w).ixh = s.ixh := by
  unfold State.channelStore; split <;> rfl
@[simp] theorem State.channelStore_ixl (b : Bool) (a : Addr) (w : Word) : (s.channelStore b a w).ixl = s.ixl := by
  unfold State.channelStore; split <;> rfl
@[simp] theorem State.channelStore_ixe (b : Bool) (a : Addr) (w : Word) : (s.channelStore b a w).ixe = s.ixe := by
  unfold State.channelStore; split <;> rfl
@[simp] theorem State.channelStore_lights (b : Bool) (a : Addr) (w : Word) : (s.channelStore b a w).lights = s.lights := by
  unfold State.channelStore; split <;> rfl
@[simp] theorem State.channelStore_keys (b : Bool) (a : Addr) (w : Word) : (s.channelStore b a w).keys = s.keys := by
  unfold State.channelStore; split <;> rfl
@[simp] theorem State.channelStore_switches (b : Bool) (a : Addr) (w : Word) : (s.channelStore b a w).switches = s.switches := by
  unfold State.channelStore; split <;> rfl
@[simp] theorem State.channelStore_compat (b : Bool) (a : Addr) (w : Word) : (s.channelStore b a w).compat = s.compat := by
  unfold State.channelStore; split <;> rfl
@[simp] theorem State.channelStore_problem (b : Bool) (a : Addr) (w : Word) : (s.channelStore b a w).problem = s.problem := by
  unfold State.channelStore; split <;> rfl
@[simp] theorem State.channelStore_ttrap (b : Bool) (a : Addr) (w : Word) : (s.channelStore b a w).ttrap = s.ttrap := by
  unfold State.channelStore; split <;> rfl
@[simp] theorem State.channelStore_halted (b : Bool) (a : Addr) (w : Word) : (s.channelStore b a w).halted = s.halted := by
  unfold State.channelStore; split <;> rfl
@[simp] theorem State.channelStore_hpr (b : Bool) (a : Addr) (w : Word) : (s.channelStore b a w).hpr = s.hpr := by
  unfold State.channelStore; split <;> rfl
@[simp] theorem State.channelStore_lpr (b : Bool) (a : Addr) (w : Word) : (s.channelStore b a w).lpr = s.lpr := by
  unfold State.channelStore; split <;> rfl
@[simp] theorem State.channelStore_car (b : Bool) (a : Addr) (w : Word) : (s.channelStore b a w).car = s.car := by
  unfold State.channelStore; split <;> rfl
@[simp] theorem State.channelStore_cti (b : Bool) (a : Addr) (w : Word) : (s.channelStore b a w).cti = s.cti := by
  unfold State.channelStore; split <;> rfl
@[simp] theorem State.channelStore_ictMask (b : Bool) (a : Addr) (w : Word) : (s.channelStore b a w).ictMask = s.ictMask := by
  unfold State.channelStore; split <;> rfl
@[simp] theorem State.channelStore_channels (b : Bool) (a : Addr) (w : Word) : (s.channelStore b a w).channels = s.channels := by
  unfold State.channelStore; split <;> rfl
@[simp] theorem State.channelStore_acting (b : Bool) (a : Addr) (w : Word) : (s.channelStore b a w).acting = s.acting := by
  unfold State.channelStore; split <;> rfl
@[simp] theorem State.channelStore_script (b : Bool) (a : Addr) (w : Word) : (s.channelStore b a w).script = s.script := by
  unfold State.channelStore; split <;> rfl
@[simp] theorem State.channelStore_outbox (b : Bool) (a : Addr) (w : Word) : (s.channelStore b a w).outbox = s.outbox := by
  unfold State.channelStore; split <;> rfl
@[simp] theorem State.channelStore_tick (b : Bool) (a : Addr) (w : Word) : (s.channelStore b a w).tick = s.tick := by
  unfold State.channelStore; split <;> rfl
@[simp] theorem State.channelStore_inside (b : Bool) (a : Addr) (w : Word) : (s.channelStore b a w).inside = s.inside := by
  unfold State.channelStore; split <;> rfl

/-! ## `storeFor` -/

@[simp] theorem State.storeFor_ac (ch : ChannelId) (b : Bool) (a : Addr) (w : Word) : (s.storeFor ch b a w).ac = s.ac := by
  unfold State.storeFor; split <;> rfl
@[simp] theorem State.storeFor_mq (ch : ChannelId) (b : Bool) (a : Addr) (w : Word) : (s.storeFor ch b a w).mq = s.mq := by
  unfold State.storeFor; split <;> rfl
@[simp] theorem State.storeFor_si (ch : ChannelId) (b : Bool) (a : Addr) (w : Word) : (s.storeFor ch b a w).si = s.si := by
  unfold State.storeFor; split <;> rfl
@[simp] theorem State.storeFor_xr (ch : ChannelId) (b : Bool) (a : Addr) (w : Word) : (s.storeFor ch b a w).xr = s.xr := by
  unfold State.storeFor; split <;> rfl
@[simp] theorem State.storeFor_pc (ch : ChannelId) (b : Bool) (a : Addr) (w : Word) : (s.storeFor ch b a w).pc = s.pc := by
  unfold State.storeFor; split <;> rfl
@[simp] theorem State.storeFor_il (ch : ChannelId) (b : Bool) (a : Addr) (w : Word) : (s.storeFor ch b a w).il = s.il := by
  unfold State.storeFor; split <;> rfl
@[simp] theorem State.storeFor_ov (ch : ChannelId) (b : Bool) (a : Addr) (w : Word) : (s.storeFor ch b a w).ov = s.ov := by
  unfold State.storeFor; split <;> rfl
@[simp] theorem State.storeFor_ixh (ch : ChannelId) (b : Bool) (a : Addr) (w : Word) : (s.storeFor ch b a w).ixh = s.ixh := by
  unfold State.storeFor; split <;> rfl
@[simp] theorem State.storeFor_ixl (ch : ChannelId) (b : Bool) (a : Addr) (w : Word) : (s.storeFor ch b a w).ixl = s.ixl := by
  unfold State.storeFor; split <;> rfl
@[simp] theorem State.storeFor_ixe (ch : ChannelId) (b : Bool) (a : Addr) (w : Word) : (s.storeFor ch b a w).ixe = s.ixe := by
  unfold State.storeFor; split <;> rfl
@[simp] theorem State.storeFor_lights (ch : ChannelId) (b : Bool) (a : Addr) (w : Word) : (s.storeFor ch b a w).lights = s.lights := by
  unfold State.storeFor; split <;> rfl
@[simp] theorem State.storeFor_keys (ch : ChannelId) (b : Bool) (a : Addr) (w : Word) : (s.storeFor ch b a w).keys = s.keys := by
  unfold State.storeFor; split <;> rfl
@[simp] theorem State.storeFor_switches (ch : ChannelId) (b : Bool) (a : Addr) (w : Word) : (s.storeFor ch b a w).switches = s.switches := by
  unfold State.storeFor; split <;> rfl
@[simp] theorem State.storeFor_compat (ch : ChannelId) (b : Bool) (a : Addr) (w : Word) : (s.storeFor ch b a w).compat = s.compat := by
  unfold State.storeFor; split <;> rfl
@[simp] theorem State.storeFor_problem (ch : ChannelId) (b : Bool) (a : Addr) (w : Word) : (s.storeFor ch b a w).problem = s.problem := by
  unfold State.storeFor; split <;> rfl
@[simp] theorem State.storeFor_ttrap (ch : ChannelId) (b : Bool) (a : Addr) (w : Word) : (s.storeFor ch b a w).ttrap = s.ttrap := by
  unfold State.storeFor; split <;> rfl
@[simp] theorem State.storeFor_halted (ch : ChannelId) (b : Bool) (a : Addr) (w : Word) : (s.storeFor ch b a w).halted = s.halted := by
  unfold State.storeFor; split <;> rfl
@[simp] theorem State.storeFor_hpr (ch : ChannelId) (b : Bool) (a : Addr) (w : Word) : (s.storeFor ch b a w).hpr = s.hpr := by
  unfold State.storeFor; split <;> rfl
@[simp] theorem State.storeFor_lpr (ch : ChannelId) (b : Bool) (a : Addr) (w : Word) : (s.storeFor ch b a w).lpr = s.lpr := by
  unfold State.storeFor; split <;> rfl
@[simp] theorem State.storeFor_car (ch : ChannelId) (b : Bool) (a : Addr) (w : Word) : (s.storeFor ch b a w).car = s.car := by
  unfold State.storeFor; split <;> rfl
@[simp] theorem State.storeFor_cti (ch : ChannelId) (b : Bool) (a : Addr) (w : Word) : (s.storeFor ch b a w).cti = s.cti := by
  unfold State.storeFor; split <;> rfl
@[simp] theorem State.storeFor_ictMask (ch : ChannelId) (b : Bool) (a : Addr) (w : Word) : (s.storeFor ch b a w).ictMask = s.ictMask := by
  unfold State.storeFor; split <;> rfl
@[simp] theorem State.storeFor_acting (ch : ChannelId) (b : Bool) (a : Addr) (w : Word) : (s.storeFor ch b a w).acting = s.acting := by
  unfold State.storeFor; split <;> rfl
@[simp] theorem State.storeFor_script (ch : ChannelId) (b : Bool) (a : Addr) (w : Word) : (s.storeFor ch b a w).script = s.script := by
  unfold State.storeFor; split <;> rfl
@[simp] theorem State.storeFor_outbox (ch : ChannelId) (b : Bool) (a : Addr) (w : Word) : (s.storeFor ch b a w).outbox = s.outbox := by
  unfold State.storeFor; split <;> rfl
@[simp] theorem State.storeFor_tick (ch : ChannelId) (b : Bool) (a : Addr) (w : Word) : (s.storeFor ch b a w).tick = s.tick := by
  unfold State.storeFor; split <;> rfl
@[simp] theorem State.storeFor_inside (ch : ChannelId) (b : Bool) (a : Addr) (w : Word) : (s.storeFor ch b a w).inside = s.inside := by
  unfold State.storeFor; split <;> rfl

/-! ## `pokes` -/

@[simp] theorem State.pokes_ac (l : List (Addr × Word)) : (s.pokes l).ac = s.ac := by rw [State.pokes_eq]
@[simp] theorem State.pokes_mq (l : List (Addr × Word)) : (s.pokes l).mq = s.mq := by rw [State.pokes_eq]
@[simp] theorem State.pokes_si (l : List (Addr × Word)) : (s.pokes l).si = s.si := by rw [State.pokes_eq]
@[simp] theorem State.pokes_xr (l : List (Addr × Word)) : (s.pokes l).xr = s.xr := by rw [State.pokes_eq]
@[simp] theorem State.pokes_pc (l : List (Addr × Word)) : (s.pokes l).pc = s.pc := by rw [State.pokes_eq]
@[simp] theorem State.pokes_il (l : List (Addr × Word)) : (s.pokes l).il = s.il := by rw [State.pokes_eq]
@[simp] theorem State.pokes_ov (l : List (Addr × Word)) : (s.pokes l).ov = s.ov := by rw [State.pokes_eq]
@[simp] theorem State.pokes_ixh (l : List (Addr × Word)) : (s.pokes l).ixh = s.ixh := by rw [State.pokes_eq]
@[simp] theorem State.pokes_ixl (l : List (Addr × Word)) : (s.pokes l).ixl = s.ixl := by rw [State.pokes_eq]
@[simp] theorem State.pokes_ixe (l : List (Addr × Word)) : (s.pokes l).ixe = s.ixe := by rw [State.pokes_eq]
@[simp] theorem State.pokes_lights (l : List (Addr × Word)) : (s.pokes l).lights = s.lights := by rw [State.pokes_eq]
@[simp] theorem State.pokes_keys (l : List (Addr × Word)) : (s.pokes l).keys = s.keys := by rw [State.pokes_eq]
@[simp] theorem State.pokes_switches (l : List (Addr × Word)) : (s.pokes l).switches = s.switches :=
  by rw [State.pokes_eq]
@[simp] theorem State.pokes_compat (l : List (Addr × Word)) : (s.pokes l).compat = s.compat := by rw [State.pokes_eq]
@[simp] theorem State.pokes_problem (l : List (Addr × Word)) : (s.pokes l).problem = s.problem :=
  by rw [State.pokes_eq]
@[simp] theorem State.pokes_ttrap (l : List (Addr × Word)) : (s.pokes l).ttrap = s.ttrap := by rw [State.pokes_eq]
@[simp] theorem State.pokes_halted (l : List (Addr × Word)) : (s.pokes l).halted = s.halted := by rw [State.pokes_eq]
@[simp] theorem State.pokes_hpr (l : List (Addr × Word)) : (s.pokes l).hpr = s.hpr := by rw [State.pokes_eq]
@[simp] theorem State.pokes_lpr (l : List (Addr × Word)) : (s.pokes l).lpr = s.lpr := by rw [State.pokes_eq]
@[simp] theorem State.pokes_car (l : List (Addr × Word)) : (s.pokes l).car = s.car := by rw [State.pokes_eq]
@[simp] theorem State.pokes_cti (l : List (Addr × Word)) : (s.pokes l).cti = s.cti := by rw [State.pokes_eq]
@[simp] theorem State.pokes_ictMask (l : List (Addr × Word)) : (s.pokes l).ictMask = s.ictMask :=
  by rw [State.pokes_eq]
@[simp] theorem State.pokes_channels (l : List (Addr × Word)) : (s.pokes l).channels = s.channels :=
  by rw [State.pokes_eq]
@[simp] theorem State.pokes_acting (l : List (Addr × Word)) : (s.pokes l).acting = s.acting := by rw [State.pokes_eq]
@[simp] theorem State.pokes_script (l : List (Addr × Word)) : (s.pokes l).script = s.script := by rw [State.pokes_eq]
@[simp] theorem State.pokes_outbox (l : List (Addr × Word)) : (s.pokes l).outbox = s.outbox := by rw [State.pokes_eq]
@[simp] theorem State.pokes_tick (l : List (Addr × Word)) : (s.pokes l).tick = s.tick := by rw [State.pokes_eq]
@[simp] theorem State.pokes_inside (l : List (Addr × Word)) : (s.pokes l).inside = s.inside := by rw [State.pokes_eq]

/-! ## `setIndicators` -/

@[simp] theorem State.setIndicators_ac (h l e : Bool) : (s.setIndicators h l e).ac = s.ac := rfl
@[simp] theorem State.setIndicators_mq (h l e : Bool) : (s.setIndicators h l e).mq = s.mq := rfl
@[simp] theorem State.setIndicators_si (h l e : Bool) : (s.setIndicators h l e).si = s.si := rfl
@[simp] theorem State.setIndicators_xr (h l e : Bool) : (s.setIndicators h l e).xr = s.xr := rfl
@[simp] theorem State.setIndicators_pc (h l e : Bool) : (s.setIndicators h l e).pc = s.pc := rfl
@[simp] theorem State.setIndicators_il (h l e : Bool) : (s.setIndicators h l e).il = s.il := rfl
@[simp] theorem State.setIndicators_ov (h l e : Bool) : (s.setIndicators h l e).ov = s.ov := rfl
@[simp] theorem State.setIndicators_lights (h l e : Bool) : (s.setIndicators h l e).lights = s.lights := rfl
@[simp] theorem State.setIndicators_keys (h l e : Bool) : (s.setIndicators h l e).keys = s.keys := rfl
@[simp] theorem State.setIndicators_switches (h l e : Bool) : (s.setIndicators h l e).switches = s.switches := rfl
@[simp] theorem State.setIndicators_compat (h l e : Bool) : (s.setIndicators h l e).compat = s.compat := rfl
@[simp] theorem State.setIndicators_problem (h l e : Bool) : (s.setIndicators h l e).problem = s.problem := rfl
@[simp] theorem State.setIndicators_ttrap (h l e : Bool) : (s.setIndicators h l e).ttrap = s.ttrap := rfl
@[simp] theorem State.setIndicators_halted (h l e : Bool) : (s.setIndicators h l e).halted = s.halted := rfl
@[simp] theorem State.setIndicators_hpr (h l e : Bool) : (s.setIndicators h l e).hpr = s.hpr := rfl
@[simp] theorem State.setIndicators_lpr (h l e : Bool) : (s.setIndicators h l e).lpr = s.lpr := rfl
@[simp] theorem State.setIndicators_car (h l e : Bool) : (s.setIndicators h l e).car = s.car := rfl
@[simp] theorem State.setIndicators_cti (h l e : Bool) : (s.setIndicators h l e).cti = s.cti := rfl
@[simp] theorem State.setIndicators_ictMask (h l e : Bool) : (s.setIndicators h l e).ictMask = s.ictMask := rfl
@[simp] theorem State.setIndicators_channels (h l e : Bool) : (s.setIndicators h l e).channels = s.channels := rfl
@[simp] theorem State.setIndicators_mem (h l e : Bool) : (s.setIndicators h l e).mem = s.mem := rfl
@[simp] theorem State.setIndicators_acting (h l e : Bool) : (s.setIndicators h l e).acting = s.acting := rfl
@[simp] theorem State.setIndicators_script (h l e : Bool) : (s.setIndicators h l e).script = s.script := rfl
@[simp] theorem State.setIndicators_outbox (h l e : Bool) : (s.setIndicators h l e).outbox = s.outbox := rfl
@[simp] theorem State.setIndicators_tick (h l e : Bool) : (s.setIndicators h l e).tick = s.tick := rfl
@[simp] theorem State.setIndicators_inside (h l e : Bool) : (s.setIndicators h l e).inside = s.inside := rfl

/-! ## `addToAc` -/

@[simp] theorem State.addToAc_mq (b : Bool) (m : BitVec 35) : (s.addToAc b m).mq = s.mq := rfl
@[simp] theorem State.addToAc_si (b : Bool) (m : BitVec 35) : (s.addToAc b m).si = s.si := rfl
@[simp] theorem State.addToAc_xr (b : Bool) (m : BitVec 35) : (s.addToAc b m).xr = s.xr := rfl
@[simp] theorem State.addToAc_pc (b : Bool) (m : BitVec 35) : (s.addToAc b m).pc = s.pc := rfl
@[simp] theorem State.addToAc_il (b : Bool) (m : BitVec 35) : (s.addToAc b m).il = s.il := rfl
@[simp] theorem State.addToAc_ixh (b : Bool) (m : BitVec 35) : (s.addToAc b m).ixh = s.ixh := rfl
@[simp] theorem State.addToAc_ixl (b : Bool) (m : BitVec 35) : (s.addToAc b m).ixl = s.ixl := rfl
@[simp] theorem State.addToAc_ixe (b : Bool) (m : BitVec 35) : (s.addToAc b m).ixe = s.ixe := rfl
@[simp] theorem State.addToAc_lights (b : Bool) (m : BitVec 35) : (s.addToAc b m).lights = s.lights := rfl
@[simp] theorem State.addToAc_keys (b : Bool) (m : BitVec 35) : (s.addToAc b m).keys = s.keys := rfl
@[simp] theorem State.addToAc_switches (b : Bool) (m : BitVec 35) : (s.addToAc b m).switches = s.switches := rfl
@[simp] theorem State.addToAc_compat (b : Bool) (m : BitVec 35) : (s.addToAc b m).compat = s.compat := rfl
@[simp] theorem State.addToAc_problem (b : Bool) (m : BitVec 35) : (s.addToAc b m).problem = s.problem := rfl
@[simp] theorem State.addToAc_ttrap (b : Bool) (m : BitVec 35) : (s.addToAc b m).ttrap = s.ttrap := rfl
@[simp] theorem State.addToAc_halted (b : Bool) (m : BitVec 35) : (s.addToAc b m).halted = s.halted := rfl
@[simp] theorem State.addToAc_hpr (b : Bool) (m : BitVec 35) : (s.addToAc b m).hpr = s.hpr := rfl
@[simp] theorem State.addToAc_lpr (b : Bool) (m : BitVec 35) : (s.addToAc b m).lpr = s.lpr := rfl
@[simp] theorem State.addToAc_car (b : Bool) (m : BitVec 35) : (s.addToAc b m).car = s.car := rfl
@[simp] theorem State.addToAc_cti (b : Bool) (m : BitVec 35) : (s.addToAc b m).cti = s.cti := rfl
@[simp] theorem State.addToAc_ictMask (b : Bool) (m : BitVec 35) : (s.addToAc b m).ictMask = s.ictMask := rfl
@[simp] theorem State.addToAc_channels (b : Bool) (m : BitVec 35) : (s.addToAc b m).channels = s.channels := rfl
@[simp] theorem State.addToAc_mem (b : Bool) (m : BitVec 35) : (s.addToAc b m).mem = s.mem := rfl
@[simp] theorem State.addToAc_acting (b : Bool) (m : BitVec 35) : (s.addToAc b m).acting = s.acting := rfl
@[simp] theorem State.addToAc_script (b : Bool) (m : BitVec 35) : (s.addToAc b m).script = s.script := rfl
@[simp] theorem State.addToAc_outbox (b : Bool) (m : BitVec 35) : (s.addToAc b m).outbox = s.outbox := rfl
@[simp] theorem State.addToAc_tick (b : Bool) (m : BitVec 35) : (s.addToAc b m).tick = s.tick := rfl
@[simp] theorem State.addToAc_inside (b : Bool) (m : BitVec 35) : (s.addToAc b m).inside = s.inside := rfl

/-! ## `acts` -/

@[simp] theorem State.acts_ac (f : Channel → Channel) : (s.acts f).ac = s.ac := rfl
@[simp] theorem State.acts_mq (f : Channel → Channel) : (s.acts f).mq = s.mq := rfl
@[simp] theorem State.acts_si (f : Channel → Channel) : (s.acts f).si = s.si := rfl
@[simp] theorem State.acts_xr (f : Channel → Channel) : (s.acts f).xr = s.xr := rfl
@[simp] theorem State.acts_pc (f : Channel → Channel) : (s.acts f).pc = s.pc := rfl
@[simp] theorem State.acts_il (f : Channel → Channel) : (s.acts f).il = s.il := rfl
@[simp] theorem State.acts_ov (f : Channel → Channel) : (s.acts f).ov = s.ov := rfl
@[simp] theorem State.acts_ixh (f : Channel → Channel) : (s.acts f).ixh = s.ixh := rfl
@[simp] theorem State.acts_ixl (f : Channel → Channel) : (s.acts f).ixl = s.ixl := rfl
@[simp] theorem State.acts_ixe (f : Channel → Channel) : (s.acts f).ixe = s.ixe := rfl
@[simp] theorem State.acts_lights (f : Channel → Channel) : (s.acts f).lights = s.lights := rfl
@[simp] theorem State.acts_keys (f : Channel → Channel) : (s.acts f).keys = s.keys := rfl
@[simp] theorem State.acts_switches (f : Channel → Channel) : (s.acts f).switches = s.switches := rfl
@[simp] theorem State.acts_compat (f : Channel → Channel) : (s.acts f).compat = s.compat := rfl
@[simp] theorem State.acts_problem (f : Channel → Channel) : (s.acts f).problem = s.problem := rfl
@[simp] theorem State.acts_ttrap (f : Channel → Channel) : (s.acts f).ttrap = s.ttrap := rfl
@[simp] theorem State.acts_halted (f : Channel → Channel) : (s.acts f).halted = s.halted := rfl
@[simp] theorem State.acts_hpr (f : Channel → Channel) : (s.acts f).hpr = s.hpr := rfl
@[simp] theorem State.acts_lpr (f : Channel → Channel) : (s.acts f).lpr = s.lpr := rfl
@[simp] theorem State.acts_car (f : Channel → Channel) : (s.acts f).car = s.car := rfl
@[simp] theorem State.acts_cti (f : Channel → Channel) : (s.acts f).cti = s.cti := rfl
@[simp] theorem State.acts_ictMask (f : Channel → Channel) : (s.acts f).ictMask = s.ictMask := rfl
@[simp] theorem State.acts_mem (f : Channel → Channel) : (s.acts f).mem = s.mem := rfl
@[simp] theorem State.acts_acting (f : Channel → Channel) : (s.acts f).acting = s.acting := rfl
@[simp] theorem State.acts_script (f : Channel → Channel) : (s.acts f).script = s.script := rfl
@[simp] theorem State.acts_outbox (f : Channel → Channel) : (s.acts f).outbox = s.outbox := rfl
@[simp] theorem State.acts_tick (f : Channel → Channel) : (s.acts f).tick = s.tick := rfl
@[simp] theorem State.acts_inside (f : Channel → Channel) : (s.acts f).inside = s.inside := rfl

/-! ## `enter` -/

@[simp] theorem State.enter_ac (p : Phase) : (s.enter p).ac = s.ac := rfl
@[simp] theorem State.enter_mq (p : Phase) : (s.enter p).mq = s.mq := rfl
@[simp] theorem State.enter_si (p : Phase) : (s.enter p).si = s.si := rfl
@[simp] theorem State.enter_xr (p : Phase) : (s.enter p).xr = s.xr := rfl
@[simp] theorem State.enter_pc (p : Phase) : (s.enter p).pc = s.pc := rfl
@[simp] theorem State.enter_il (p : Phase) : (s.enter p).il = s.il := rfl
@[simp] theorem State.enter_ov (p : Phase) : (s.enter p).ov = s.ov := rfl
@[simp] theorem State.enter_ixh (p : Phase) : (s.enter p).ixh = s.ixh := rfl
@[simp] theorem State.enter_ixl (p : Phase) : (s.enter p).ixl = s.ixl := rfl
@[simp] theorem State.enter_ixe (p : Phase) : (s.enter p).ixe = s.ixe := rfl
@[simp] theorem State.enter_lights (p : Phase) : (s.enter p).lights = s.lights := rfl
@[simp] theorem State.enter_keys (p : Phase) : (s.enter p).keys = s.keys := rfl
@[simp] theorem State.enter_switches (p : Phase) : (s.enter p).switches = s.switches := rfl
@[simp] theorem State.enter_compat (p : Phase) : (s.enter p).compat = s.compat := rfl
@[simp] theorem State.enter_problem (p : Phase) : (s.enter p).problem = s.problem := rfl
@[simp] theorem State.enter_ttrap (p : Phase) : (s.enter p).ttrap = s.ttrap := rfl
@[simp] theorem State.enter_halted (p : Phase) : (s.enter p).halted = s.halted := rfl
@[simp] theorem State.enter_hpr (p : Phase) : (s.enter p).hpr = s.hpr := rfl
@[simp] theorem State.enter_lpr (p : Phase) : (s.enter p).lpr = s.lpr := rfl
@[simp] theorem State.enter_car (p : Phase) : (s.enter p).car = s.car := rfl
@[simp] theorem State.enter_cti (p : Phase) : (s.enter p).cti = s.cti := rfl
@[simp] theorem State.enter_ictMask (p : Phase) : (s.enter p).ictMask = s.ictMask := rfl
@[simp] theorem State.enter_mem (p : Phase) : (s.enter p).mem = s.mem := rfl
@[simp] theorem State.enter_acting (p : Phase) : (s.enter p).acting = s.acting := rfl
@[simp] theorem State.enter_script (p : Phase) : (s.enter p).script = s.script := rfl
@[simp] theorem State.enter_outbox (p : Phase) : (s.enter p).outbox = s.outbox := rfl
@[simp] theorem State.enter_tick (p : Phase) : (s.enter p).tick = s.tick := rfl
@[simp] theorem State.enter_inside (p : Phase) : (s.enter p).inside = s.inside := rfl

/-! ## `skipIf` -/

@[simp] theorem State.skipIf_ac (b : Bool) : (s.skipIf b).ac = s.ac := by cases b <;> rfl
@[simp] theorem State.skipIf_mq (b : Bool) : (s.skipIf b).mq = s.mq := by cases b <;> rfl
@[simp] theorem State.skipIf_si (b : Bool) : (s.skipIf b).si = s.si := by cases b <;> rfl
@[simp] theorem State.skipIf_xr (b : Bool) : (s.skipIf b).xr = s.xr := by cases b <;> rfl
@[simp] theorem State.skipIf_il (b : Bool) : (s.skipIf b).il = s.il := by cases b <;> rfl
@[simp] theorem State.skipIf_ov (b : Bool) : (s.skipIf b).ov = s.ov := by cases b <;> rfl
@[simp] theorem State.skipIf_ixh (b : Bool) : (s.skipIf b).ixh = s.ixh := by cases b <;> rfl
@[simp] theorem State.skipIf_ixl (b : Bool) : (s.skipIf b).ixl = s.ixl := by cases b <;> rfl
@[simp] theorem State.skipIf_ixe (b : Bool) : (s.skipIf b).ixe = s.ixe := by cases b <;> rfl
@[simp] theorem State.skipIf_lights (b : Bool) : (s.skipIf b).lights = s.lights := by cases b <;> rfl
@[simp] theorem State.skipIf_keys (b : Bool) : (s.skipIf b).keys = s.keys := by cases b <;> rfl
@[simp] theorem State.skipIf_switches (b : Bool) : (s.skipIf b).switches = s.switches := by cases b <;> rfl
@[simp] theorem State.skipIf_compat (b : Bool) : (s.skipIf b).compat = s.compat := by cases b <;> rfl
@[simp] theorem State.skipIf_problem (b : Bool) : (s.skipIf b).problem = s.problem := by cases b <;> rfl
@[simp] theorem State.skipIf_ttrap (b : Bool) : (s.skipIf b).ttrap = s.ttrap := by cases b <;> rfl
@[simp] theorem State.skipIf_halted (b : Bool) : (s.skipIf b).halted = s.halted := by cases b <;> rfl
@[simp] theorem State.skipIf_hpr (b : Bool) : (s.skipIf b).hpr = s.hpr := by cases b <;> rfl
@[simp] theorem State.skipIf_lpr (b : Bool) : (s.skipIf b).lpr = s.lpr := by cases b <;> rfl
@[simp] theorem State.skipIf_car (b : Bool) : (s.skipIf b).car = s.car := by cases b <;> rfl
@[simp] theorem State.skipIf_cti (b : Bool) : (s.skipIf b).cti = s.cti := by cases b <;> rfl
@[simp] theorem State.skipIf_ictMask (b : Bool) : (s.skipIf b).ictMask = s.ictMask := by cases b <;> rfl
@[simp] theorem State.skipIf_channels (b : Bool) : (s.skipIf b).channels = s.channels := by cases b <;> rfl
@[simp] theorem State.skipIf_mem (b : Bool) : (s.skipIf b).mem = s.mem := by cases b <;> rfl
@[simp] theorem State.skipIf_acting (b : Bool) : (s.skipIf b).acting = s.acting := by cases b <;> rfl
@[simp] theorem State.skipIf_script (b : Bool) : (s.skipIf b).script = s.script := by cases b <;> rfl
@[simp] theorem State.skipIf_outbox (b : Bool) : (s.skipIf b).outbox = s.outbox := by cases b <;> rfl
@[simp] theorem State.skipIf_tick (b : Bool) : (s.skipIf b).tick = s.tick := by cases b <;> rfl
@[simp] theorem State.skipIf_inside (b : Bool) : (s.skipIf b).inside = s.inside := by cases b <;> rfl

/-! ## `setX` -/

@[simp] theorem State.setX_ac (n : Nat) (v : Addr) : (s.setX n v).ac = s.ac := by unfold State.setX; split <;> rfl
@[simp] theorem State.setX_mq (n : Nat) (v : Addr) : (s.setX n v).mq = s.mq := by unfold State.setX; split <;> rfl
@[simp] theorem State.setX_si (n : Nat) (v : Addr) : (s.setX n v).si = s.si := by unfold State.setX; split <;> rfl
@[simp] theorem State.setX_pc (n : Nat) (v : Addr) : (s.setX n v).pc = s.pc := by unfold State.setX; split <;> rfl
@[simp] theorem State.setX_il (n : Nat) (v : Addr) : (s.setX n v).il = s.il := by unfold State.setX; split <;> rfl
@[simp] theorem State.setX_ov (n : Nat) (v : Addr) : (s.setX n v).ov = s.ov := by unfold State.setX; split <;> rfl
@[simp] theorem State.setX_ixh (n : Nat) (v : Addr) : (s.setX n v).ixh = s.ixh := by unfold State.setX; split <;> rfl
@[simp] theorem State.setX_ixl (n : Nat) (v : Addr) : (s.setX n v).ixl = s.ixl := by unfold State.setX; split <;> rfl
@[simp] theorem State.setX_ixe (n : Nat) (v : Addr) : (s.setX n v).ixe = s.ixe := by unfold State.setX; split <;> rfl
@[simp] theorem State.setX_lights (n : Nat) (v : Addr) : (s.setX n v).lights = s.lights :=
  by unfold State.setX; split <;> rfl
@[simp] theorem State.setX_keys (n : Nat) (v : Addr) : (s.setX n v).keys = s.keys :=
  by unfold State.setX; split <;> rfl
@[simp] theorem State.setX_switches (n : Nat) (v : Addr) : (s.setX n v).switches = s.switches :=
  by unfold State.setX; split <;> rfl
@[simp] theorem State.setX_compat (n : Nat) (v : Addr) : (s.setX n v).compat = s.compat :=
  by unfold State.setX; split <;> rfl
@[simp] theorem State.setX_problem (n : Nat) (v : Addr) : (s.setX n v).problem = s.problem :=
  by unfold State.setX; split <;> rfl
@[simp] theorem State.setX_ttrap (n : Nat) (v : Addr) : (s.setX n v).ttrap = s.ttrap :=
  by unfold State.setX; split <;> rfl
@[simp] theorem State.setX_halted (n : Nat) (v : Addr) : (s.setX n v).halted = s.halted :=
  by unfold State.setX; split <;> rfl
@[simp] theorem State.setX_hpr (n : Nat) (v : Addr) : (s.setX n v).hpr = s.hpr := by unfold State.setX; split <;> rfl
@[simp] theorem State.setX_lpr (n : Nat) (v : Addr) : (s.setX n v).lpr = s.lpr := by unfold State.setX; split <;> rfl
@[simp] theorem State.setX_car (n : Nat) (v : Addr) : (s.setX n v).car = s.car := by unfold State.setX; split <;> rfl
@[simp] theorem State.setX_cti (n : Nat) (v : Addr) : (s.setX n v).cti = s.cti := by unfold State.setX; split <;> rfl
@[simp] theorem State.setX_ictMask (n : Nat) (v : Addr) : (s.setX n v).ictMask = s.ictMask :=
  by unfold State.setX; split <;> rfl
@[simp] theorem State.setX_channels (n : Nat) (v : Addr) : (s.setX n v).channels = s.channels :=
  by unfold State.setX; split <;> rfl
@[simp] theorem State.setX_mem (n : Nat) (v : Addr) : (s.setX n v).mem = s.mem := by unfold State.setX; split <;> rfl
@[simp] theorem State.setX_acting (n : Nat) (v : Addr) : (s.setX n v).acting = s.acting :=
  by unfold State.setX; split <;> rfl
@[simp] theorem State.setX_script (n : Nat) (v : Addr) : (s.setX n v).script = s.script :=
  by unfold State.setX; split <;> rfl
@[simp] theorem State.setX_outbox (n : Nat) (v : Addr) : (s.setX n v).outbox = s.outbox :=
  by unfold State.setX; split <;> rfl
@[simp] theorem State.setX_tick (n : Nat) (v : Addr) : (s.setX n v).tick = s.tick :=
  by unfold State.setX; split <;> rfl
@[simp] theorem State.setX_inside (n : Nat) (v : Addr) : (s.setX n v).inside = s.inside :=
  by unfold State.setX; split <;> rfl

/-! ## `skipOn` -/

@[simp] theorem State.skipOn_ac (r : Relation) : (s.skipOn r).ac = s.ac := by cases r <;> rfl
@[simp] theorem State.skipOn_mq (r : Relation) : (s.skipOn r).mq = s.mq := by cases r <;> rfl
@[simp] theorem State.skipOn_si (r : Relation) : (s.skipOn r).si = s.si := by cases r <;> rfl
@[simp] theorem State.skipOn_xr (r : Relation) : (s.skipOn r).xr = s.xr := by cases r <;> rfl
@[simp] theorem State.skipOn_il (r : Relation) : (s.skipOn r).il = s.il := by cases r <;> rfl
@[simp] theorem State.skipOn_ov (r : Relation) : (s.skipOn r).ov = s.ov := by cases r <;> rfl
@[simp] theorem State.skipOn_ixh (r : Relation) : (s.skipOn r).ixh = s.ixh := by cases r <;> rfl
@[simp] theorem State.skipOn_ixl (r : Relation) : (s.skipOn r).ixl = s.ixl := by cases r <;> rfl
@[simp] theorem State.skipOn_ixe (r : Relation) : (s.skipOn r).ixe = s.ixe := by cases r <;> rfl
@[simp] theorem State.skipOn_lights (r : Relation) : (s.skipOn r).lights = s.lights := by cases r <;> rfl
@[simp] theorem State.skipOn_keys (r : Relation) : (s.skipOn r).keys = s.keys := by cases r <;> rfl
@[simp] theorem State.skipOn_switches (r : Relation) : (s.skipOn r).switches = s.switches := by cases r <;> rfl
@[simp] theorem State.skipOn_compat (r : Relation) : (s.skipOn r).compat = s.compat := by cases r <;> rfl
@[simp] theorem State.skipOn_problem (r : Relation) : (s.skipOn r).problem = s.problem := by cases r <;> rfl
@[simp] theorem State.skipOn_ttrap (r : Relation) : (s.skipOn r).ttrap = s.ttrap := by cases r <;> rfl
@[simp] theorem State.skipOn_halted (r : Relation) : (s.skipOn r).halted = s.halted := by cases r <;> rfl
@[simp] theorem State.skipOn_hpr (r : Relation) : (s.skipOn r).hpr = s.hpr := by cases r <;> rfl
@[simp] theorem State.skipOn_lpr (r : Relation) : (s.skipOn r).lpr = s.lpr := by cases r <;> rfl
@[simp] theorem State.skipOn_car (r : Relation) : (s.skipOn r).car = s.car := by cases r <;> rfl
@[simp] theorem State.skipOn_cti (r : Relation) : (s.skipOn r).cti = s.cti := by cases r <;> rfl
@[simp] theorem State.skipOn_ictMask (r : Relation) : (s.skipOn r).ictMask = s.ictMask := by cases r <;> rfl
@[simp] theorem State.skipOn_channels (r : Relation) : (s.skipOn r).channels = s.channels := by cases r <;> rfl
@[simp] theorem State.skipOn_mem (r : Relation) : (s.skipOn r).mem = s.mem := by cases r <;> rfl
@[simp] theorem State.skipOn_acting (r : Relation) : (s.skipOn r).acting = s.acting := by cases r <;> rfl
@[simp] theorem State.skipOn_script (r : Relation) : (s.skipOn r).script = s.script := by cases r <;> rfl
@[simp] theorem State.skipOn_outbox (r : Relation) : (s.skipOn r).outbox = s.outbox := by cases r <;> rfl
@[simp] theorem State.skipOn_tick (r : Relation) : (s.skipOn r).tick = s.tick := by cases r <;> rfl
@[simp] theorem State.skipOn_inside (r : Relation) : (s.skipOn r).inside = s.inside := by cases r <;> rfl

/-! ## `compareIndex` -/

@[simp] theorem State.compareIndex_ac (x d : Addr) : (s.compareIndex x d).ac = s.ac := by
  unfold State.compareIndex; split <;> [rfl; (split <;> rfl)]
@[simp] theorem State.compareIndex_mq (x d : Addr) : (s.compareIndex x d).mq = s.mq := by
  unfold State.compareIndex; split <;> [rfl; (split <;> rfl)]
@[simp] theorem State.compareIndex_si (x d : Addr) : (s.compareIndex x d).si = s.si := by
  unfold State.compareIndex; split <;> [rfl; (split <;> rfl)]
@[simp] theorem State.compareIndex_xr (x d : Addr) : (s.compareIndex x d).xr = s.xr := by
  unfold State.compareIndex; split <;> [rfl; (split <;> rfl)]
@[simp] theorem State.compareIndex_pc (x d : Addr) : (s.compareIndex x d).pc = s.pc := by
  unfold State.compareIndex; split <;> [rfl; (split <;> rfl)]
@[simp] theorem State.compareIndex_il (x d : Addr) : (s.compareIndex x d).il = s.il := by
  unfold State.compareIndex; split <;> [rfl; (split <;> rfl)]
@[simp] theorem State.compareIndex_ov (x d : Addr) : (s.compareIndex x d).ov = s.ov := by
  unfold State.compareIndex; split <;> [rfl; (split <;> rfl)]
@[simp] theorem State.compareIndex_lights (x d : Addr) : (s.compareIndex x d).lights = s.lights := by
  unfold State.compareIndex; split <;> [rfl; (split <;> rfl)]
@[simp] theorem State.compareIndex_keys (x d : Addr) : (s.compareIndex x d).keys = s.keys := by
  unfold State.compareIndex; split <;> [rfl; (split <;> rfl)]
@[simp] theorem State.compareIndex_switches (x d : Addr) : (s.compareIndex x d).switches = s.switches := by
  unfold State.compareIndex; split <;> [rfl; (split <;> rfl)]
@[simp] theorem State.compareIndex_compat (x d : Addr) : (s.compareIndex x d).compat = s.compat := by
  unfold State.compareIndex; split <;> [rfl; (split <;> rfl)]
@[simp] theorem State.compareIndex_problem (x d : Addr) : (s.compareIndex x d).problem = s.problem := by
  unfold State.compareIndex; split <;> [rfl; (split <;> rfl)]
@[simp] theorem State.compareIndex_ttrap (x d : Addr) : (s.compareIndex x d).ttrap = s.ttrap := by
  unfold State.compareIndex; split <;> [rfl; (split <;> rfl)]
@[simp] theorem State.compareIndex_halted (x d : Addr) : (s.compareIndex x d).halted = s.halted := by
  unfold State.compareIndex; split <;> [rfl; (split <;> rfl)]
@[simp] theorem State.compareIndex_hpr (x d : Addr) : (s.compareIndex x d).hpr = s.hpr := by
  unfold State.compareIndex; split <;> [rfl; (split <;> rfl)]
@[simp] theorem State.compareIndex_lpr (x d : Addr) : (s.compareIndex x d).lpr = s.lpr := by
  unfold State.compareIndex; split <;> [rfl; (split <;> rfl)]
@[simp] theorem State.compareIndex_car (x d : Addr) : (s.compareIndex x d).car = s.car := by
  unfold State.compareIndex; split <;> [rfl; (split <;> rfl)]
@[simp] theorem State.compareIndex_cti (x d : Addr) : (s.compareIndex x d).cti = s.cti := by
  unfold State.compareIndex; split <;> [rfl; (split <;> rfl)]
@[simp] theorem State.compareIndex_ictMask (x d : Addr) : (s.compareIndex x d).ictMask = s.ictMask := by
  unfold State.compareIndex; split <;> [rfl; (split <;> rfl)]
@[simp] theorem State.compareIndex_channels (x d : Addr) : (s.compareIndex x d).channels = s.channels := by
  unfold State.compareIndex; split <;> [rfl; (split <;> rfl)]
@[simp] theorem State.compareIndex_mem (x d : Addr) : (s.compareIndex x d).mem = s.mem := by
  unfold State.compareIndex; split <;> [rfl; (split <;> rfl)]
@[simp] theorem State.compareIndex_acting (x d : Addr) : (s.compareIndex x d).acting = s.acting := by
  unfold State.compareIndex; split <;> [rfl; (split <;> rfl)]
@[simp] theorem State.compareIndex_script (x d : Addr) : (s.compareIndex x d).script = s.script := by
  unfold State.compareIndex; split <;> [rfl; (split <;> rfl)]
@[simp] theorem State.compareIndex_outbox (x d : Addr) : (s.compareIndex x d).outbox = s.outbox := by
  unfold State.compareIndex; split <;> [rfl; (split <;> rfl)]
@[simp] theorem State.compareIndex_tick (x d : Addr) : (s.compareIndex x d).tick = s.tick := by
  unfold State.compareIndex; split <;> [rfl; (split <;> rfl)]
@[simp] theorem State.compareIndex_inside (x d : Addr) : (s.compareIndex x d).inside = s.inside := by
  unfold State.compareIndex; split <;> [rfl; (split <;> rfl)]

/-! ## `indicateAdd` -/

@[simp] theorem State.indicateAdd_ac (x d : Addr) : (s.indicateAdd x d).ac = s.ac := by
  unfold State.indicateAdd; split <;> [rfl; (split <;> rfl)]
@[simp] theorem State.indicateAdd_mq (x d : Addr) : (s.indicateAdd x d).mq = s.mq := by
  unfold State.indicateAdd; split <;> [rfl; (split <;> rfl)]
@[simp] theorem State.indicateAdd_si (x d : Addr) : (s.indicateAdd x d).si = s.si := by
  unfold State.indicateAdd; split <;> [rfl; (split <;> rfl)]
@[simp] theorem State.indicateAdd_xr (x d : Addr) : (s.indicateAdd x d).xr = s.xr := by
  unfold State.indicateAdd; split <;> [rfl; (split <;> rfl)]
@[simp] theorem State.indicateAdd_pc (x d : Addr) : (s.indicateAdd x d).pc = s.pc := by
  unfold State.indicateAdd; split <;> [rfl; (split <;> rfl)]
@[simp] theorem State.indicateAdd_il (x d : Addr) : (s.indicateAdd x d).il = s.il := by
  unfold State.indicateAdd; split <;> [rfl; (split <;> rfl)]
@[simp] theorem State.indicateAdd_ov (x d : Addr) : (s.indicateAdd x d).ov = s.ov := by
  unfold State.indicateAdd; split <;> [rfl; (split <;> rfl)]
@[simp] theorem State.indicateAdd_lights (x d : Addr) : (s.indicateAdd x d).lights = s.lights := by
  unfold State.indicateAdd; split <;> [rfl; (split <;> rfl)]
@[simp] theorem State.indicateAdd_keys (x d : Addr) : (s.indicateAdd x d).keys = s.keys := by
  unfold State.indicateAdd; split <;> [rfl; (split <;> rfl)]
@[simp] theorem State.indicateAdd_switches (x d : Addr) : (s.indicateAdd x d).switches = s.switches := by
  unfold State.indicateAdd; split <;> [rfl; (split <;> rfl)]
@[simp] theorem State.indicateAdd_compat (x d : Addr) : (s.indicateAdd x d).compat = s.compat := by
  unfold State.indicateAdd; split <;> [rfl; (split <;> rfl)]
@[simp] theorem State.indicateAdd_problem (x d : Addr) : (s.indicateAdd x d).problem = s.problem := by
  unfold State.indicateAdd; split <;> [rfl; (split <;> rfl)]
@[simp] theorem State.indicateAdd_ttrap (x d : Addr) : (s.indicateAdd x d).ttrap = s.ttrap := by
  unfold State.indicateAdd; split <;> [rfl; (split <;> rfl)]
@[simp] theorem State.indicateAdd_halted (x d : Addr) : (s.indicateAdd x d).halted = s.halted := by
  unfold State.indicateAdd; split <;> [rfl; (split <;> rfl)]
@[simp] theorem State.indicateAdd_hpr (x d : Addr) : (s.indicateAdd x d).hpr = s.hpr := by
  unfold State.indicateAdd; split <;> [rfl; (split <;> rfl)]
@[simp] theorem State.indicateAdd_lpr (x d : Addr) : (s.indicateAdd x d).lpr = s.lpr := by
  unfold State.indicateAdd; split <;> [rfl; (split <;> rfl)]
@[simp] theorem State.indicateAdd_car (x d : Addr) : (s.indicateAdd x d).car = s.car := by
  unfold State.indicateAdd; split <;> [rfl; (split <;> rfl)]
@[simp] theorem State.indicateAdd_cti (x d : Addr) : (s.indicateAdd x d).cti = s.cti := by
  unfold State.indicateAdd; split <;> [rfl; (split <;> rfl)]
@[simp] theorem State.indicateAdd_ictMask (x d : Addr) : (s.indicateAdd x d).ictMask = s.ictMask := by
  unfold State.indicateAdd; split <;> [rfl; (split <;> rfl)]
@[simp] theorem State.indicateAdd_channels (x d : Addr) : (s.indicateAdd x d).channels = s.channels := by
  unfold State.indicateAdd; split <;> [rfl; (split <;> rfl)]
@[simp] theorem State.indicateAdd_mem (x d : Addr) : (s.indicateAdd x d).mem = s.mem := by
  unfold State.indicateAdd; split <;> [rfl; (split <;> rfl)]
@[simp] theorem State.indicateAdd_acting (x d : Addr) : (s.indicateAdd x d).acting = s.acting := by
  unfold State.indicateAdd; split <;> [rfl; (split <;> rfl)]
@[simp] theorem State.indicateAdd_script (x d : Addr) : (s.indicateAdd x d).script = s.script := by
  unfold State.indicateAdd; split <;> [rfl; (split <;> rfl)]
@[simp] theorem State.indicateAdd_outbox (x d : Addr) : (s.indicateAdd x d).outbox = s.outbox := by
  unfold State.indicateAdd; split <;> [rfl; (split <;> rfl)]
@[simp] theorem State.indicateAdd_tick (x d : Addr) : (s.indicateAdd x d).tick = s.tick := by
  unfold State.indicateAdd; split <;> [rfl; (split <;> rfl)]
@[simp] theorem State.indicateAdd_inside (x d : Addr) : (s.indicateAdd x d).inside = s.inside := by
  unfold State.indicateAdd; split <;> [rfl; (split <;> rfl)]

/-! ## `indicateSubtract` -/

@[simp] theorem State.indicateSubtract_ac (x d : Addr) : (s.indicateSubtract x d).ac = s.ac := by
  unfold State.indicateSubtract; split <;> [rfl; (split <;> rfl)]
@[simp] theorem State.indicateSubtract_mq (x d : Addr) : (s.indicateSubtract x d).mq = s.mq := by
  unfold State.indicateSubtract; split <;> [rfl; (split <;> rfl)]
@[simp] theorem State.indicateSubtract_si (x d : Addr) : (s.indicateSubtract x d).si = s.si := by
  unfold State.indicateSubtract; split <;> [rfl; (split <;> rfl)]
@[simp] theorem State.indicateSubtract_xr (x d : Addr) : (s.indicateSubtract x d).xr = s.xr := by
  unfold State.indicateSubtract; split <;> [rfl; (split <;> rfl)]
@[simp] theorem State.indicateSubtract_pc (x d : Addr) : (s.indicateSubtract x d).pc = s.pc := by
  unfold State.indicateSubtract; split <;> [rfl; (split <;> rfl)]
@[simp] theorem State.indicateSubtract_il (x d : Addr) : (s.indicateSubtract x d).il = s.il := by
  unfold State.indicateSubtract; split <;> [rfl; (split <;> rfl)]
@[simp] theorem State.indicateSubtract_ov (x d : Addr) : (s.indicateSubtract x d).ov = s.ov := by
  unfold State.indicateSubtract; split <;> [rfl; (split <;> rfl)]
@[simp] theorem State.indicateSubtract_lights (x d : Addr) : (s.indicateSubtract x d).lights = s.lights := by
  unfold State.indicateSubtract; split <;> [rfl; (split <;> rfl)]
@[simp] theorem State.indicateSubtract_keys (x d : Addr) : (s.indicateSubtract x d).keys = s.keys := by
  unfold State.indicateSubtract; split <;> [rfl; (split <;> rfl)]
@[simp] theorem State.indicateSubtract_switches (x d : Addr) : (s.indicateSubtract x d).switches = s.switches := by
  unfold State.indicateSubtract; split <;> [rfl; (split <;> rfl)]
@[simp] theorem State.indicateSubtract_compat (x d : Addr) : (s.indicateSubtract x d).compat = s.compat := by
  unfold State.indicateSubtract; split <;> [rfl; (split <;> rfl)]
@[simp] theorem State.indicateSubtract_problem (x d : Addr) : (s.indicateSubtract x d).problem = s.problem := by
  unfold State.indicateSubtract; split <;> [rfl; (split <;> rfl)]
@[simp] theorem State.indicateSubtract_ttrap (x d : Addr) : (s.indicateSubtract x d).ttrap = s.ttrap := by
  unfold State.indicateSubtract; split <;> [rfl; (split <;> rfl)]
@[simp] theorem State.indicateSubtract_halted (x d : Addr) : (s.indicateSubtract x d).halted = s.halted := by
  unfold State.indicateSubtract; split <;> [rfl; (split <;> rfl)]
@[simp] theorem State.indicateSubtract_hpr (x d : Addr) : (s.indicateSubtract x d).hpr = s.hpr := by
  unfold State.indicateSubtract; split <;> [rfl; (split <;> rfl)]
@[simp] theorem State.indicateSubtract_lpr (x d : Addr) : (s.indicateSubtract x d).lpr = s.lpr := by
  unfold State.indicateSubtract; split <;> [rfl; (split <;> rfl)]
@[simp] theorem State.indicateSubtract_car (x d : Addr) : (s.indicateSubtract x d).car = s.car := by
  unfold State.indicateSubtract; split <;> [rfl; (split <;> rfl)]
@[simp] theorem State.indicateSubtract_cti (x d : Addr) : (s.indicateSubtract x d).cti = s.cti := by
  unfold State.indicateSubtract; split <;> [rfl; (split <;> rfl)]
@[simp] theorem State.indicateSubtract_ictMask (x d : Addr) : (s.indicateSubtract x d).ictMask = s.ictMask := by
  unfold State.indicateSubtract; split <;> [rfl; (split <;> rfl)]
@[simp] theorem State.indicateSubtract_channels (x d : Addr) : (s.indicateSubtract x d).channels = s.channels := by
  unfold State.indicateSubtract; split <;> [rfl; (split <;> rfl)]
@[simp] theorem State.indicateSubtract_mem (x d : Addr) : (s.indicateSubtract x d).mem = s.mem := by
  unfold State.indicateSubtract; split <;> [rfl; (split <;> rfl)]
@[simp] theorem State.indicateSubtract_acting (x d : Addr) : (s.indicateSubtract x d).acting = s.acting := by
  unfold State.indicateSubtract; split <;> [rfl; (split <;> rfl)]
@[simp] theorem State.indicateSubtract_script (x d : Addr) : (s.indicateSubtract x d).script = s.script := by
  unfold State.indicateSubtract; split <;> [rfl; (split <;> rfl)]
@[simp] theorem State.indicateSubtract_outbox (x d : Addr) : (s.indicateSubtract x d).outbox = s.outbox := by
  unfold State.indicateSubtract; split <;> [rfl; (split <;> rfl)]
@[simp] theorem State.indicateSubtract_tick (x d : Addr) : (s.indicateSubtract x d).tick = s.tick := by
  unfold State.indicateSubtract; split <;> [rfl; (split <;> rfl)]
@[simp] theorem State.indicateSubtract_inside (x d : Addr) : (s.indicateSubtract x d).inside = s.inside := by
  unfold State.indicateSubtract; split <;> [rfl; (split <;> rfl)]

/-! ## `addToIndex` -/

@[simp] theorem State.addToIndex_ac (t : BitVec 4) (d : Addr) : (s.addToIndex t d).ac = s.ac := by
  simp [State.addToIndex]
@[simp] theorem State.addToIndex_mq (t : BitVec 4) (d : Addr) : (s.addToIndex t d).mq = s.mq := by
  simp [State.addToIndex]
@[simp] theorem State.addToIndex_si (t : BitVec 4) (d : Addr) : (s.addToIndex t d).si = s.si := by
  simp [State.addToIndex]
@[simp] theorem State.addToIndex_pc (t : BitVec 4) (d : Addr) : (s.addToIndex t d).pc = s.pc := by
  simp [State.addToIndex]
@[simp] theorem State.addToIndex_il (t : BitVec 4) (d : Addr) : (s.addToIndex t d).il = s.il := by
  simp [State.addToIndex]
@[simp] theorem State.addToIndex_ov (t : BitVec 4) (d : Addr) : (s.addToIndex t d).ov = s.ov := by
  simp [State.addToIndex]
@[simp] theorem State.addToIndex_lights (t : BitVec 4) (d : Addr) : (s.addToIndex t d).lights = s.lights := by
  simp [State.addToIndex]
@[simp] theorem State.addToIndex_keys (t : BitVec 4) (d : Addr) : (s.addToIndex t d).keys = s.keys := by
  simp [State.addToIndex]
@[simp] theorem State.addToIndex_switches (t : BitVec 4) (d : Addr) : (s.addToIndex t d).switches = s.switches := by
  simp [State.addToIndex]
@[simp] theorem State.addToIndex_compat (t : BitVec 4) (d : Addr) : (s.addToIndex t d).compat = s.compat := by
  simp [State.addToIndex]
@[simp] theorem State.addToIndex_problem (t : BitVec 4) (d : Addr) : (s.addToIndex t d).problem = s.problem := by
  simp [State.addToIndex]
@[simp] theorem State.addToIndex_ttrap (t : BitVec 4) (d : Addr) : (s.addToIndex t d).ttrap = s.ttrap := by
  simp [State.addToIndex]
@[simp] theorem State.addToIndex_halted (t : BitVec 4) (d : Addr) : (s.addToIndex t d).halted = s.halted := by
  simp [State.addToIndex]
@[simp] theorem State.addToIndex_hpr (t : BitVec 4) (d : Addr) : (s.addToIndex t d).hpr = s.hpr := by
  simp [State.addToIndex]
@[simp] theorem State.addToIndex_lpr (t : BitVec 4) (d : Addr) : (s.addToIndex t d).lpr = s.lpr := by
  simp [State.addToIndex]
@[simp] theorem State.addToIndex_car (t : BitVec 4) (d : Addr) : (s.addToIndex t d).car = s.car := by
  simp [State.addToIndex]
@[simp] theorem State.addToIndex_cti (t : BitVec 4) (d : Addr) : (s.addToIndex t d).cti = s.cti := by
  simp [State.addToIndex]
@[simp] theorem State.addToIndex_ictMask (t : BitVec 4) (d : Addr) : (s.addToIndex t d).ictMask = s.ictMask := by
  simp [State.addToIndex]
@[simp] theorem State.addToIndex_channels (t : BitVec 4) (d : Addr) : (s.addToIndex t d).channels = s.channels := by
  simp [State.addToIndex]
@[simp] theorem State.addToIndex_mem (t : BitVec 4) (d : Addr) : (s.addToIndex t d).mem = s.mem := by
  simp [State.addToIndex]
@[simp] theorem State.addToIndex_acting (t : BitVec 4) (d : Addr) : (s.addToIndex t d).acting = s.acting := by
  simp [State.addToIndex]
@[simp] theorem State.addToIndex_script (t : BitVec 4) (d : Addr) : (s.addToIndex t d).script = s.script := by
  simp [State.addToIndex]
@[simp] theorem State.addToIndex_outbox (t : BitVec 4) (d : Addr) : (s.addToIndex t d).outbox = s.outbox := by
  simp [State.addToIndex]
@[simp] theorem State.addToIndex_tick (t : BitVec 4) (d : Addr) : (s.addToIndex t d).tick = s.tick := by
  simp [State.addToIndex]
@[simp] theorem State.addToIndex_inside (t : BitVec 4) (d : Addr) : (s.addToIndex t d).inside = s.inside := by
  simp [State.addToIndex]

/-! ## `subtractFromIndex` -/

@[simp] theorem State.subtractFromIndex_ac (t : BitVec 4) (d : Addr) : (s.subtractFromIndex t d).ac = s.ac := by
  simp [State.subtractFromIndex]
@[simp] theorem State.subtractFromIndex_mq (t : BitVec 4) (d : Addr) : (s.subtractFromIndex t d).mq = s.mq := by
  simp [State.subtractFromIndex]
@[simp] theorem State.subtractFromIndex_si (t : BitVec 4) (d : Addr) : (s.subtractFromIndex t d).si = s.si := by
  simp [State.subtractFromIndex]
@[simp] theorem State.subtractFromIndex_pc (t : BitVec 4) (d : Addr) : (s.subtractFromIndex t d).pc = s.pc := by
  simp [State.subtractFromIndex]
@[simp] theorem State.subtractFromIndex_il (t : BitVec 4) (d : Addr) : (s.subtractFromIndex t d).il = s.il := by
  simp [State.subtractFromIndex]
@[simp] theorem State.subtractFromIndex_ov (t : BitVec 4) (d : Addr) : (s.subtractFromIndex t d).ov = s.ov := by
  simp [State.subtractFromIndex]
@[simp] theorem State.subtractFromIndex_lights (t : BitVec 4) (d : Addr) : (s.subtractFromIndex t d).lights = s.lights := by
  simp [State.subtractFromIndex]
@[simp] theorem State.subtractFromIndex_keys (t : BitVec 4) (d : Addr) : (s.subtractFromIndex t d).keys = s.keys := by
  simp [State.subtractFromIndex]
@[simp] theorem State.subtractFromIndex_switches (t : BitVec 4) (d : Addr) : (s.subtractFromIndex t d).switches = s.switches := by
  simp [State.subtractFromIndex]
@[simp] theorem State.subtractFromIndex_compat (t : BitVec 4) (d : Addr) : (s.subtractFromIndex t d).compat = s.compat := by
  simp [State.subtractFromIndex]
@[simp] theorem State.subtractFromIndex_problem (t : BitVec 4) (d : Addr) : (s.subtractFromIndex t d).problem = s.problem := by
  simp [State.subtractFromIndex]
@[simp] theorem State.subtractFromIndex_ttrap (t : BitVec 4) (d : Addr) : (s.subtractFromIndex t d).ttrap = s.ttrap := by
  simp [State.subtractFromIndex]
@[simp] theorem State.subtractFromIndex_halted (t : BitVec 4) (d : Addr) : (s.subtractFromIndex t d).halted = s.halted := by
  simp [State.subtractFromIndex]
@[simp] theorem State.subtractFromIndex_hpr (t : BitVec 4) (d : Addr) : (s.subtractFromIndex t d).hpr = s.hpr := by
  simp [State.subtractFromIndex]
@[simp] theorem State.subtractFromIndex_lpr (t : BitVec 4) (d : Addr) : (s.subtractFromIndex t d).lpr = s.lpr := by
  simp [State.subtractFromIndex]
@[simp] theorem State.subtractFromIndex_car (t : BitVec 4) (d : Addr) : (s.subtractFromIndex t d).car = s.car := by
  simp [State.subtractFromIndex]
@[simp] theorem State.subtractFromIndex_cti (t : BitVec 4) (d : Addr) : (s.subtractFromIndex t d).cti = s.cti := by
  simp [State.subtractFromIndex]
@[simp] theorem State.subtractFromIndex_ictMask (t : BitVec 4) (d : Addr) : (s.subtractFromIndex t d).ictMask = s.ictMask := by
  simp [State.subtractFromIndex]
@[simp] theorem State.subtractFromIndex_channels (t : BitVec 4) (d : Addr) : (s.subtractFromIndex t d).channels = s.channels := by
  simp [State.subtractFromIndex]
@[simp] theorem State.subtractFromIndex_mem (t : BitVec 4) (d : Addr) : (s.subtractFromIndex t d).mem = s.mem := by
  simp [State.subtractFromIndex]
@[simp] theorem State.subtractFromIndex_acting (t : BitVec 4) (d : Addr) : (s.subtractFromIndex t d).acting = s.acting := by
  simp [State.subtractFromIndex]
@[simp] theorem State.subtractFromIndex_script (t : BitVec 4) (d : Addr) : (s.subtractFromIndex t d).script = s.script := by
  simp [State.subtractFromIndex]
@[simp] theorem State.subtractFromIndex_outbox (t : BitVec 4) (d : Addr) : (s.subtractFromIndex t d).outbox = s.outbox := by
  simp [State.subtractFromIndex]
@[simp] theorem State.subtractFromIndex_tick (t : BitVec 4) (d : Addr) : (s.subtractFromIndex t d).tick = s.tick := by
  simp [State.subtractFromIndex]
@[simp] theorem State.subtractFromIndex_inside (t : BitVec 4) (d : Addr) : (s.subtractFromIndex t d).inside = s.inside := by
  simp [State.subtractFromIndex]

/-! ## Fields an update does write -/

@[simp] theorem State.skip_pc (n : Addr) : (s.skip n).pc = s.pc + n := rfl
@[simp] theorem State.skipIf_true : s.skipIf true = s.skip 1 := rfl
@[simp] theorem State.skipIf_false : s.skipIf false = s := rfl
@[simp] theorem State.clearModes_compat : s.clearModes.compat = false := rfl
@[simp] theorem State.clearModes_problem : s.clearModes.problem = false := rfl
@[simp] theorem State.clearModes_ttrap : s.clearModes.ttrap = false := rfl
@[simp] theorem State.enterAt_pc (a : Addr) : (s.enterAt a).pc = a := rfl
@[simp] theorem State.enterAt_compat (a : Addr) : (s.enterAt a).compat = false := rfl
@[simp] theorem State.enterAt_problem (a : Addr) : (s.enterAt a).problem = false := rfl
@[simp] theorem State.enterAt_ttrap (a : Addr) : (s.enterAt a).ttrap = false := rfl
@[simp] theorem State.pokes_nil : s.pokes [] = s := rfl
@[simp] theorem State.pokes_cons (e : Addr × Word) (l : List (Addr × Word)) :
    s.pokes (e :: l) = (s.poke e.1 e.2).pokes l := rfl
@[simp] theorem State.setIndicators_ixh (h l e : Bool) : (s.setIndicators h l e).ixh = h := rfl
@[simp] theorem State.setIndicators_ixl (h l e : Bool) : (s.setIndicators h l e).ixl = l := rfl
@[simp] theorem State.setIndicators_ixe (h l e : Bool) : (s.setIndicators h l e).ixe = e := rfl
@[simp] theorem State.setX_zero (v : Addr) : s.setX 0 v = s := rfl
@[simp] theorem State.x_zero : s.x 0 = 0 := rfl

/-! ## Storage read after an update that does not write it -/

@[simp] theorem State.skip_load (n : Addr) (i : Addr) : (s.skip n).load i = s.load i := by simp [State.load]
@[simp] theorem State.setChannel_load (ch : ChannelId) (c : Channel) (i : Addr) : (s.setChannel ch c).load i = s.load i := by simp [State.load]
@[simp] theorem State.loadModes_load (h : Addr) (i : Addr) : (s.loadModes h).load i = s.load i := by simp [State.load]
@[simp] theorem State.clearModes_load (i : Addr) : (s.clearModes).load i = s.load i := by simp [State.load]
@[simp] theorem State.enterAt_load (a : Addr) (i : Addr) : (s.enterAt a).load i = s.load i := by simp [State.load]
@[simp] theorem State.handOver_load (ch : ChannelId) (i : Addr) : (s.handOver ch).load i = s.load i := by simp [State.load]
@[simp] theorem State.setIndicators_load (h l e : Bool) (i : Addr) : (s.setIndicators h l e).load i = s.load i := by simp [State.load]
@[simp] theorem State.addToAc_load (b : Bool) (m : BitVec 35) (i : Addr) : (s.addToAc b m).load i = s.load i := by simp [State.load]
@[simp] theorem State.acts_load (f : Channel → Channel) (i : Addr) : (s.acts f).load i = s.load i := by simp [State.load]
@[simp] theorem State.enter_load (p : Phase) (i : Addr) : (s.enter p).load i = s.load i := by simp [State.load]
@[simp] theorem State.skipIf_load (b : Bool) (i : Addr) : (s.skipIf b).load i = s.load i := by simp [State.load]
@[simp] theorem State.setX_load (n : Nat) (v : Addr) (i : Addr) : (s.setX n v).load i = s.load i := by simp [State.load]
@[simp] theorem State.skipOn_load (r : Relation) (i : Addr) : (s.skipOn r).load i = s.load i := by simp [State.load]
@[simp] theorem State.compareIndex_load (x d : Addr) (i : Addr) : (s.compareIndex x d).load i = s.load i := by simp [State.load]
@[simp] theorem State.indicateAdd_load (x d : Addr) (i : Addr) : (s.indicateAdd x d).load i = s.load i := by simp [State.load]
@[simp] theorem State.indicateSubtract_load (x d : Addr) (i : Addr) : (s.indicateSubtract x d).load i = s.load i := by simp [State.load]
@[simp] theorem State.addToIndex_load (t : BitVec 4) (d : Addr) (i : Addr) : (s.addToIndex t d).load i = s.load i := by simp [State.load]
@[simp] theorem State.subtractFromIndex_load (t : BitVec 4) (d : Addr) (i : Addr) : (s.subtractFromIndex t d).load i = s.load i := by simp [State.load]

/-! ## Channels -/

@[simp] theorem State.channel_setChannel (ch : ChannelId) (c : Channel) :
    (s.setChannel ch c).channel ch = c := by
  simp [State.channel, State.setChannel]

theorem channelIndex_injective {x y : ChannelId} (h : (channelIndex x).val = (channelIndex y).val) : x = y := by
  cases x <;> cases y <;> first | rfl | exact absurd h (by decide)

@[simp] theorem State.channel_setChannel_of_ne {ch other : ChannelId} (c : Channel) (h : other ≠ ch) :
    (s.setChannel ch c).channel other = s.channel other := by
  have hne : (channelIndex ch).val ≠ (channelIndex other).val := fun e => h (channelIndex_injective e).symm
  simp [State.channel, State.setChannel, Vector.getElem_set_ne _ _ hne]

@[simp] theorem State.poke_channel (a : Addr) (w : Word) (ch : ChannelId) :
    (s.poke a w).channel ch = s.channel ch := rfl

@[simp] theorem State.handOver_channel (ch : ChannelId) :
    (s.handOver ch).channel ch = { s.channel ch with handed := true } := by simp [State.handOver]

@[simp] theorem State.handOver_channel_of_ne {ch other : ChannelId} (h : other ≠ ch) :
    (s.handOver ch).channel other = s.channel other := by simp [State.handOver, h]

/-- The busy test reads the phase alone (R443, R465). -/
theorem Channel.busy_eq_false {c : Channel} : c.busy = false ↔ c.phase = .idle := by simp [Channel.busy]

/-! ## Index registers -/

theorem State.x_of_ne_zero {n : Nat} (h : n ≠ 0) : s.x n = s.xr[n - 1]?.getD 0 := by simp [State.x, h]

theorem State.x_setX_same {n : Nat} (h : n ≠ 0) (h' : n ≤ 15) (v : Addr) : (s.setX n v).x n = v := by
  have : n - 1 < 15 := by omega
  simp [State.x, State.setX, h, this]

theorem State.x_setX_of_ne {n m : Nat} (h : m ≠ n) (v : Addr) : (s.setX n v).x m = s.x m := by
  by_cases hn : n = 0
  · subst hn; rfl
  · by_cases hm : m = 0
    · subst hm; rfl
    · have : n - 1 ≠ m - 1 := by omega
      simp [State.x, State.setX, hn, hm, this]

end Sys2Proof.Machine
end

