-- ==== Sys2Proof/Laws/Turns.lean ====
section
/-! SUPPORT. `Ensures r P`: every next state of `r` satisfies `P`. `Turned s t`: what the turns of other agents can do,
with one lemma for each thing a channel or the environment does, one for a turn and one for a list of turns. -/

namespace Sys2Proof.Machine

/-- Every next state `r` can answer satisfies `P`. -/
def Ensures (r : Result) (P : State → Prop) : Prop := ∀ t, r = .next t → P t

variable {P : State → Prop} {s : State}

@[simp] theorem ensures_next {t : State} : Ensures (.next t) P ↔ P t :=
  ⟨fun h => h t rfl, fun h u e => by cases e; exact h⟩

@[simp] theorem ensures_fault {f : Fault} : Ensures (.fault f) P := fun _ e => by cases e

@[simp] theorem ensures_refused {r : Refusal} : Ensures (.refused r) P := fun _ e => by cases e

theorem Ensures.mono {Q : State → Prop} {r : Result} (h : Ensures r Q) (hq : ∀ t, Q t → P t) : Ensures r P :=
  fun t e => hq t (h t e)

theorem ensures_ite {c : Prop} [Decidable c] {a b : Result} (ha : c → Ensures a P) (hb : ¬ c → Ensures b P) :
    Ensures (if c then a else b) P := by
  split
  · exact ha ‹_›
  · exact hb ‹_›

@[simp] theorem andThen_next (s : State) (k : State → Result) : andThen (.next s) k = k s := rfl

theorem ensures_andThen {Q : State → Prop} {r : Result} {k : State → Result} (h : Ensures r Q)
    (hk : ∀ u, Q u → Ensures (k u) P) : Ensures (andThen r k) P := by
  unfold andThen; split
  · next u => exact hk u (h u rfl)
  · exact ensures_fault
  · exact ensures_refused

theorem readWord_of_load {a : Addr} {w : Word} {k : Word → Result} (h : s.load a = some w) :
    readWord s a k = k w := by simp [readWord, h]

theorem readWord_of_none {a : Addr} {k : Word → Result} (h : s.load a = none) :
    readWord s a k = .fault .unwrittenStorage := by simp [readWord, h]

theorem ensures_readWord {a : Addr} {k : Word → Result} (h : ∀ w, s.load a = some w → Ensures (k w) P) :
    Ensures (readWord s a k) P := by
  unfold readWord; split
  · exact h _ ‹_›
  · exact ensures_fault

/-! ## Noting a condition and disconnecting -/

theorem Channel.note_eq (c : Channel) (b : EnableBit) :
    c.note b =
      { c with
        pendingEnd := (c.note b).pendingEnd, pendingUnusual := (c.note b).pendingUnusual
        pendingAttention := (c.note b).pendingAttention } := by
  unfold Channel.note Channel.setPending
  split
  · split <;> rfl
  · rfl

@[simp] theorem Channel.note_phase (c : Channel) (b : EnableBit) : (c.note b).phase = c.phase := by
  rw [Channel.note_eq]

@[simp] theorem Channel.note_enb (c : Channel) (b : EnableBit) : (c.note b).enb = c.enb := by
  rw [Channel.note_eq]

@[simp] theorem Channel.note_inhibit (c : Channel) (b : EnableBit) : (c.note b).inhibit = c.inhibit := by
  rw [Channel.note_eq]

@[simp] theorem Channel.disconnect_phase (c : Channel) : c.disconnect.phase = .idle := by
  unfold Channel.disconnect
  dsimp only
  split
  · rw [Channel.note_phase]
  · rfl

/-- A change that leaves the two gates of a channel: its enable mask and its protection inhibit. -/
def Channel.SameGates (c d : Channel) : Prop := d.enb = c.enb ∧ d.inhibit = c.inhibit

theorem Channel.sameGates_note (c : Channel) (b : EnableBit) : c.SameGates (c.note b) := by
  simp [Channel.SameGates]

theorem Channel.SameGates.trans {c d e : Channel} (h : c.SameGates d) (g : d.SameGates e) : c.SameGates e :=
  ⟨g.1.trans h.1, g.2.trans h.2⟩

theorem Channel.SameGates.ite {c d e : Channel} {p : Prop} [Decidable p] (h : c.SameGates d) (g : c.SameGates e) :
    c.SameGates (if p then d else e) := by split <;> assumption

theorem Channel.sameGates_noteConditions (c : Channel) (r : Conditions) : c.SameGates (c.noteConditions r) :=
  have h : c.SameGates (if r.dataError || r.exceptional || r.intervention then c.note .unusualEnd else c) :=
    .ite (c.sameGates_note _) ⟨rfl, rfl⟩
  .ite (h.trans (Channel.sameGates_note _ _)) h

theorem Channel.sameGates_disconnect (c : Channel) : c.SameGates c.disconnect :=
  .ite (.trans (d := { c with phase := .idle, attentionWaiting := false }) ⟨rfl, rfl⟩ (Channel.sameGates_note _ _))
    ⟨rfl, rfl⟩

theorem Channel.sameGates_receiveAttention (c : Channel) : c.SameGates c.receiveAttention :=
  .ite (.trans (c.sameGates_note .attentionImmediate) ⟨rfl, rfl⟩)
    ((c.sameGates_note _).trans (Channel.sameGates_note _ _))

theorem Channel.sameGates_completed (c : Channel) (cmd : Command) (r : DeviceReply) :
    c.SameGates (c.completed cmd r) := by
  have h : c.SameGates { c with status := r.status } := ⟨rfl, rfl⟩
  have he := (h.trans (Channel.sameGates_note _ .ending)).trans (Channel.sameGates_disconnect _)
  exact .ite ((h.trans (Channel.sameGates_noteConditions _ _)).trans (Channel.sameGates_disconnect _))
    (.ite he (.ite (h.trans ⟨rfl, rfl⟩) he))

theorem Channel.sameGates_resumed (c : Channel) (p : Phase) : c.SameGates (c.resumed p) := by
  unfold Channel.resumed; split
  · exact c.sameGates_disconnect.trans ⟨rfl, rfl⟩
  · exact ⟨rfl, rfl⟩

/-! ## What turns can do -/

/-- What the turns of other agents can do between `s` and `t`: they change channels, storage and what channels send,
no enable mask or inhibit, no word that protection keeps from every channel, and not the form of storage. -/
structure Turned (s t : State) : Prop where
  same : t = { s with channels := t.channels, mem := t.mem, acting := t.acting, outbox := t.outbox }
  gates : ∀ ch, (s.channel ch).SameGates (t.channel ch)
  stores : ∀ a, (∀ ch, (s.channel ch).inhibit = false) → s.outsideBounds a = true → t.load a = s.load a
  wf : s.wf = true → t.wf = true

theorem Turned.refl (s : State) : Turned s s := ⟨rfl, fun _ => ⟨rfl, rfl⟩, fun _ _ _ => rfl, id⟩

theorem Turned.outsideBounds {t : State} (h : Turned s t) (a : Addr) : t.outsideBounds a = s.outsideBounds a := by
  rw [h.same]; rfl

theorem Turned.trans {t u : State} (h : Turned s t) (g : Turned t u) : Turned s u where
  same := by rw [g.same, h.same]
  gates ch := (h.gates ch).trans (g.gates ch)
  stores a hi ho := by
    rw [g.stores a (fun ch => (h.gates ch).2.trans (hi ch)) (by rwa [h.outsideBounds]), h.stores a hi ho]
  wf hw := g.wf (h.wf hw)

theorem Turned.ite {t u : State} {p : Prop} [Decidable p] (h : Turned s t) (g : Turned s u) :
    Turned s (if p then t else u) := by split <;> assumption

/-- A change of what only turns change, apart from channels and storage. -/
theorem Turned.acting (s : State) (ch : ChannelId) : Turned s { s with acting := ch } :=
  ⟨rfl, fun _ => ⟨rfl, rfl⟩, fun _ _ _ => rfl, id⟩

theorem Turned.outbox (s : State) (l : List Sent) : Turned s { s with outbox := l } :=
  ⟨rfl, fun _ => ⟨rfl, rfl⟩, fun _ _ _ => rfl, id⟩

theorem Turned.setChannel {ch : ChannelId} {c : Channel} (h : (s.channel ch).SameGates c) :
    Turned s (s.setChannel ch c) where
  same := rfl
  stores _ _ _ := rfl
  wf := id
  gates x := by
    by_cases hx : x = ch
    · subst hx; simpa using h
    · simp [hx, Channel.SameGates]

theorem Turned.acts {f : Channel → Channel} (h : ∀ c : Channel, c.SameGates (f c)) : Turned s (s.acts f) :=
  .setChannel (h _)

theorem Turned.enter (s : State) (p : Phase) : Turned s (s.enter p) := .acts fun _ => ⟨rfl, rfl⟩

theorem Turned.poke {ch : ChannelId} {a : Addr} (w : Word)
    (h : s.channelViolates (s.channel ch).inhibit a = false) : Turned s (s.poke a w) where
  same := rfl
  gates _ := ⟨rfl, rfl⟩
  wf := s.wf_poke a w
  stores b hi ho := by
    apply State.load_poke_of_ne
    rintro rfl
    simp [State.channelViolates, hi ch, ho] at h

/-! ## Commands and data control words -/

/-- What executing a command or a data control word can do: it changes channels, not their gates, and what they
send. -/
structure Commanded (s t : State) : Prop where
  same : t = { s with channels := t.channels, outbox := t.outbox }
  gates : ∀ ch, (s.channel ch).SameGates (t.channel ch)

theorem Commanded.turned {t : State} (h : Commanded s t) : Turned s t where
  same := by rw [h.same]
  gates := h.gates
  stores a _ _ := by rw [h.same]; rfl
  wf hw := by rw [h.same]; exact hw

theorem Commanded.outbox (s : State) (l : List Sent) : Commanded s { s with outbox := l } :=
  ⟨rfl, fun _ => ⟨rfl, rfl⟩⟩

theorem Commanded.trans {t u : State} (h : Commanded s t) (g : Commanded t u) : Commanded s u where
  same := by rw [g.same, h.same]
  gates ch := (h.gates ch).trans (g.gates ch)

theorem Commanded.acts {f : Channel → Channel} (h : ∀ c : Channel, c.SameGates (f c)) : Commanded s (s.acts f) :=
  ⟨rfl, (Turned.acts h).gates⟩

theorem Commanded.enter (s : State) (p : Phase) : Commanded s (s.enter p) := .acts fun _ => ⟨rfl, rfl⟩

theorem commanded_controlUnitOperation (cmd : Command) : Ensures (controlUnitOperation cmd s) (Commanded s) := by
  unfold controlUnitOperation; split
  · exact ensures_next.2 (.enter s _)
  · exact ensures_ite (fun _ => ensures_next.2 ((Commanded.outbox s _).trans (.enter _ _)))
      fun _ => ensures_next.2 ((Commanded.outbox s _).trans (.enter _ _))

theorem ensures_withCommandAddress {flags : CmdFlags} {y : Addr} {k : Addr → Result} (h : ∀ a, Ensures (k a) P) :
    Ensures (withCommandAddress flags y s k) P :=
  ensures_ite (fun _ => ensures_readWord fun _ _ => h _) fun _ => h _

theorem commanded_execChTch (flags : CmdFlags) (y : Addr) : Ensures (execChTch flags y s) (Commanded s) :=
  ensures_withCommandAddress fun _ => ensures_next.2 (.acts fun _ => ⟨rfl, rfl⟩)

theorem commanded_channelObject (a : Addr) : Ensures (channelObject a s) (Commanded s) :=
  ensures_readWord fun _ _ => ensures_next.2 (.enter s _)

theorem commanded_execChXec (flags : CmdFlags) (y : Addr) : Ensures (execChXec flags y s) (Commanded s) := by
  unfold execChXec; split
  · exact ensures_next.2 (.enter s _)
  · split
    · exact ensures_readWord fun _ _ => ensures_next.2 (.enter s _)
    · exact commanded_channelObject _

theorem commanded_loadControlWord (b n : Bool) (c : BitVec 15) (a : Addr) :
    Ensures (loadControlWord b n c a s) (Commanded s) := by
  unfold loadControlWord; split <;> exact ensures_next.2 (.acts fun _ => ⟨rfl, rfl⟩)

theorem commanded_loadIndirectControlWord (b : Bool) (c : BitVec 15) (y : Addr) :
    Ensures (loadIndirectControlWord b c y s) (Commanded s) := by
  unfold loadIndirectControlWord; split
  · exact ensures_next.2 (.acts fun _ => ⟨rfl, rfl⟩)
  · exact ensures_readWord fun _ _ =>
      ensures_ite (fun _ => ensures_refused) fun _ => commanded_loadControlWord _ _ _ _

theorem commanded_performChannel (i : Instr) : Ensures (performChannel i s) (Commanded s) := by
  unfold performChannel
  split
  · exact commanded_controlUnitOperation _
  · exact commanded_controlUnitOperation _
  · exact commanded_controlUnitOperation _
  · exact commanded_controlUnitOperation _
  · exact commanded_controlUnitOperation _
  · exact commanded_execChTch _ _
  · exact commanded_execChXec _ _
  · exact commanded_loadControlWord _ _ _ _
  · exact commanded_loadIndirectControlWord _ _ _
  · exact commanded_loadControlWord _ _ _ _
  · exact commanded_loadControlWord _ _ _ _
  · exact commanded_loadIndirectControlWord _ _ _
  · exact ensures_next.2 ⟨rfl, fun _ => ⟨rfl, rfl⟩⟩

/-! ## Steps of a channel, acts of the environment, turns -/

theorem turned_countWord (op : UnitOperation) (r : DeviceReply) : Turned s (countWord op r s) :=
  .acts fun _ => ⟨rfl, rfl⟩

theorem turned_transmitWord (op : UnitOperation) (b : Bool) (r : DeviceReply) :
    Ensures (transmitWord op b r s) (Turned s) :=
  ensures_ite
    (fun _ => ensures_ite (fun _ => ensures_next.2 (turned_countWord _ _)) fun _ =>
      ensures_ite (fun _ => ensures_next.2 (.enter s _)) fun hv =>
        ensures_next.2 ((Turned.poke _ (Bool.eq_false_of_not_eq_true hv)).trans (turned_countWord _ _)))
    fun _ => ensures_readWord fun _ _ => ensures_next.2 ((Turned.outbox s _).trans (turned_countWord _ _))

theorem turned_transmitStep (cmd : Command) (b n : Bool) (r : DeviceReply) :
    Ensures (transmitStep cmd b n r s) (Turned s) :=
  ensures_ite (fun _ => ensures_next.2 (.enter s _)) fun _ =>
    ensures_ite
      (fun _ => ensures_ite
        (fun _ => ensures_next.2 ((Turned.acts fun c => c.sameGates_note _).trans (.enter _ _)))
        fun _ => ensures_next.2 (.enter s _))
      fun _ => turned_transmitWord _ _ _

theorem turned_channelStep (r : DeviceReply) : Ensures (channelStep r s) (Turned s) := by
  unfold channelStep
  split
  · exact ensures_next.2 (.refl s)
  · exact ensures_next.2 (.refl s)
  · exact ensures_readWord fun _ _ => ensures_next.2 (.acts fun _ => ⟨rfl, rfl⟩)
  · unfold channelDecode; split
    · exact (commanded_performChannel _).mono fun _ h => h.turned
    · exact ensures_next.2 (.ite (.enter s _) (.enter s _))
  · exact (commanded_channelObject _).mono fun _ h => h.turned
  · exact turned_transmitStep _ _ _ _
  · exact ensures_next.2 (.acts fun c => c.sameGates_completed _ _)

theorem Turned.channelStore (s : State) (ch : ChannelId) (a : Addr) (w : Word) :
    Turned s (s.channelStore (s.channel ch).inhibit a w) := by
  unfold State.channelStore; split
  · exact .refl s
  · next hv => exact .poke w (Bool.eq_false_of_not_eq_true hv)

theorem turned_environmentAct (ch : ChannelId) (act : EnvironmentAct) : Turned s (environmentAct ch act s) := by
  cases act with
  | store a w => exact .ite (.channelStore s ch a w) (.refl s)
  | resume p => exact .ite (.setChannel (Channel.sameGates_resumed _ _)) (.refl s)
  | stop => exact .setChannel (Channel.sameGates_resumed _ _)
  | unusualEnd r => exact .setChannel (Channel.sameGates_noteConditions _ _)
  | endCondition => exact .setChannel (Channel.sameGates_note _ _)
  | attention => exact .setChannel (Channel.sameGates_note _ _)
  | counters _ _ _ => exact .setChannel ⟨rfl, rfl⟩
  | status _ => exact .setChannel ⟨rfl, rfl⟩
  | carryOn => exact .setChannel ⟨rfl, rfl⟩

theorem turned_runTurn (t : Turn) : Ensures (runTurn t s) (Turned s) := by
  cases t with
  | channel ch r => exact (turned_channelStep r).mono fun _ h => (Turned.acting s ch).trans h
  | environment ch act => exact ensures_next.2 (.ite (turned_environmentAct ch act) (.refl s))
  | attention ch => exact ensures_next.2 (.setChannel (Channel.sameGates_receiveAttention _))

theorem turned_runTurns (l : List Turn) : Ensures (runTurns l s) (Turned s) := by
  induction l generalizing s with
  | nil => exact ensures_next.2 (.refl s)
  | cons t l ih => exact ensures_andThen (turned_runTurn t) fun u h => ih.mono fun _ g => h.trans g

end Sys2Proof.Machine
end

