-- ==== Sys2Proof/Laws/Ops.lean ====
section
/-! SUPPORT. One lemma per shared operation, saying once what it can do: with no turn still to come inside the step
(`s.inside = []`) the operation is an equation; else every next state is one of those named. -/

namespace Sys2Proof.Machine

variable {P : State → Prop} {s : State}

/-! ## Between two accesses -/

/-- No turn can store where protection forbids it: none is still to come inside the step, or no channel's inhibit is
on. -/
def State.Calm (s : State) : Prop := s.inside = [] ∨ ∀ ch, (s.channel ch).inhibit = false

/-- What can happen before a storage access between `s` and `t`. -/
structure Between (s t : State) : Prop where
  same : t = { s with
    channels := t.channels, mem := t.mem, acting := t.acting, outbox := t.outbox, inside := t.inside }
  inside : s.inside = [] → t.inside = []
  gates : ∀ ch, (s.channel ch).SameGates (t.channel ch)
  stores : ∀ a, s.Calm → s.outsideBounds a = true → t.load a = s.load a
  wf : s.wf = true → t.wf = true

theorem Between.refl (s : State) : Between s s := ⟨rfl, id, fun _ => ⟨rfl, rfl⟩, fun _ _ _ => rfl, id⟩

theorem Between.calm {t : State} (h : Between s t) (hc : s.Calm) : t.Calm :=
  hc.imp h.inside fun hi ch => (h.gates ch).2.trans (hi ch)

theorem Between.outsideBounds {t : State} (h : Between s t) (a : Addr) : t.outsideBounds a = s.outsideBounds a := by
  rw [h.same]; rfl

theorem Between.violates {t : State} (h : Between s t) (a : Addr) : t.violates a = s.violates a := by
  rw [h.same]; rfl

theorem Between.trans {t u : State} (h : Between s t) (g : Between t u) : Between s u where
  same := by rw [g.same, h.same]
  inside hs := g.inside (h.inside hs)
  gates ch := (h.gates ch).trans (g.gates ch)
  stores a hc ho := by rw [g.stores a (h.calm hc) (by rwa [h.outsideBounds]), h.stores a hc ho]
  wf hw := g.wf (h.wf hw)

theorem between_of_quiet {k : State → Result} (h : s.inside = []) : between s k = k s := by simp [between, h]

theorem between_of_turns {k : State → Result} {turns : List Turn} {rest : List (List Turn)}
    (h : s.inside = turns :: rest) :
    between s k = andThen (runTurns turns { s with inside := rest }) k := by simp [between, h]

theorem ensures_between {k : State → Result} (h : ∀ u, Between s u → Ensures (k u) P) : Ensures (between s k) P := by
  unfold between; split
  · exact h s (.refl s)
  · next turns rest hi =>
    refine ensures_andThen (turned_runTurns turns) fun u hu => h u ?_
    exact
      { same := by rw [hu.same]
        inside := fun h0 => by simp [hi] at h0
        gates := hu.gates
        stores := fun a hc ho => hu.stores a (hc.resolve_left (by simp [hi])) ho
        wf := hu.wf }

/-! ## Reading -/

theorem withWord_of_load {a : Addr} {w : Word} {k : Word → State → Result} (hq : s.inside = [])
    (h : s.load a = some w) : withWord s a k = k w s := by simp [withWord, between_of_quiet hq, readWord, h]

theorem withWord_of_none {a : Addr} {k : Word → State → Result} (hq : s.inside = []) (h : s.load a = none) :
    withWord s a k = .fault .unwrittenStorage := by simp [withWord, between_of_quiet hq, readWord, h]

theorem withDouble_of_load {a : Addr} {w0 w1 : Word} {k : Word → Word → State → Result} (hq : s.inside = [])
    (h0 : s.load a = some w0) (h1 : s.load (a + 1) = some w1) : withDouble s a k = k w0 w1 s := by
  rw [withDouble, withWord_of_load hq h0, withWord_of_load hq h1]

/-- A chain read with no turn inside is the chain of `chase`. -/
theorem withChain_of_quiet {k : Addr → State → Result} (hq : s.inside = []) (n : Nat) (a : Addr) :
    withChain n a s k = match chase n s a with
      | .ok ea => k ea s
      | .error f => .fault f := by
  induction n generalizing a with
  | zero => rfl
  | succ n ih =>
    rw [withChain, chase]
    cases h : s.load a with
    | none => rw [withWord_of_none hq h]
    | some iw =>
      rw [withWord_of_load hq h]
      dsimp only
      split
      · exact ih _
      · rfl

theorem withAddress_of_direct {d : Indexing} {o : Operand} {k : Addr → State → Result} (h : o.f = false) :
    withAddress d o s k = k (directAddress d o s) s := by simp [withAddress, h]

/-- Address formation with no turn inside is `effectiveAddress`. -/
theorem withAddress_of_quiet {d : Indexing} {o : Operand} {k : Addr → State → Result} (hq : s.inside = []) :
    withAddress d o s k = match effectiveAddress d o s with
      | .ok ea => k ea s
      | .error f => .fault f := by
  unfold withAddress effectiveAddress
  split
  · rw [withChain_of_quiet hq, State.chainLimit, hq]; rfl
  · rfl

theorem withAddress_of_ok {d : Indexing} {o : Operand} {ea : Addr} {k : Addr → State → Result} (hq : s.inside = [])
    (h : effectiveAddress d o s = .ok ea) : withAddress d o s k = k ea s := by rw [withAddress_of_quiet hq, h]

theorem withOperand_of_ok {o : Operand} {ea : Addr} {w : Word} {k : Word → State → Result} (hq : s.inside = [])
    (h : effectiveAddress .double o s = .ok ea) (hw : s.load ea = some w) : withOperand o s k = k w s := by
  rw [withOperand, withAddress_of_ok hq h, withWord_of_load hq hw]

theorem withDoubleOperand_of_ok {o : Operand} {ea : Addr} {w0 w1 : Word} {k : Word → Word → State → Result}
    (hq : s.inside = []) (h : effectiveAddress .double o s = .ok ea) (h0 : s.load ea = some w0)
    (h1 : s.load (ea + 1) = some w1) : withDoubleOperand o s k = k w0 w1 s := by
  rw [withDoubleOperand, withAddress_of_ok hq h, withDouble_of_load hq h0 h1]

theorem withIndexOperand_of_ok {o : Operand} {ea : Addr} {w : Word} {k : Word → State → Result} (hq : s.inside = [])
    (h : effectiveAddress .single o s = .ok ea) (hw : s.load ea = some w) : withIndexOperand o s k = k w s := by
  rw [withIndexOperand, withAddress_of_ok hq h, withWord_of_load hq hw]

theorem ensures_withWord {a : Addr} {k : Word → State → Result} (h : ∀ w u, Between s u → Ensures (k w u) P) :
    Ensures (withWord s a k) P :=
  ensures_between fun u hu => ensures_readWord fun w _ => h w u hu

theorem ensures_withDouble {a : Addr} {k : Word → Word → State → Result}
    (h : ∀ w0 w1 u, Between s u → Ensures (k w0 w1 u) P) : Ensures (withDouble s a k) P :=
  ensures_withWord fun w0 _ hu => ensures_withWord fun w1 v hv => h w0 w1 v (hu.trans hv)

theorem ensures_withChain {k : Addr → State → Result} (n : Nat) (a : Addr)
    (h : ∀ ea u, Between s u → Ensures (k ea u) P) : Ensures (withChain n a s k) P := by
  induction n generalizing a s with
  | zero => exact ensures_fault
  | succ n ih =>
    exact ensures_withWord fun _ u hu => ensures_ite
      (fun _ => ih _ fun ea v hv => h ea v (hu.trans hv)) fun _ => h _ u hu

theorem ensures_withAddress {d : Indexing} {o : Operand} {k : Addr → State → Result}
    (h : ∀ ea u, Between s u → Ensures (k ea u) P) : Ensures (withAddress d o s k) P :=
  ensures_ite (fun _ => ensures_withChain _ _ h) fun _ => h _ s (.refl s)

theorem ensures_withOperand {o : Operand} {k : Word → State → Result} (h : ∀ w u, Between s u → Ensures (k w u) P) :
    Ensures (withOperand o s k) P :=
  ensures_withAddress fun _ _ hu => ensures_withWord fun w v hv => h w v (hu.trans hv)

theorem ensures_withWords {k : List Word → State → Result} (n : Nat) (a : Addr)
    (h : ∀ l u, l.length = n → Between s u → Ensures (k l u) P) : Ensures (withWords s n a k) P := by
  induction n generalizing a k s with
  | zero => exact h [] s rfl (.refl s)
  | succ n ih =>
    exact ensures_withWord fun w _ hu => ih (a + 1) fun l v hl hv => h (w :: l) v (by simp [hl]) (hu.trans hv)

/-! ## The hardware's own stores -/

theorem withPokes_of_quiet (l : List (Addr × Word)) {k : State → Result} (hq : s.inside = []) :
    withPokes l s k = k (s.pokes l) := by
  induction l generalizing s with
  | nil => rfl
  | cons e l ih => rw [withPokes, between_of_quiet hq]; exact ih (s := s.poke e.1 e.2) hq

/-- What a list of unchecked stores can do between `s` and `t`, `as` holding their addresses. -/
structure Poked (as : List Addr) (s t : State) : Prop where
  same : t = { s with
    channels := t.channels, mem := t.mem, acting := t.acting, outbox := t.outbox, inside := t.inside }
  inside : s.inside = [] → t.inside = []
  gates : ∀ ch, (s.channel ch).SameGates (t.channel ch)
  stores : ∀ a, a ∉ as → s.Calm → s.outsideBounds a = true → t.load a = s.load a
  wf : s.wf = true → t.wf = true

theorem ensures_withPokes (l : List (Addr × Word)) {k : State → Result}
    (h : ∀ u, Poked (l.map Prod.fst) s u → Ensures (k u) P) : Ensures (withPokes l s k) P := by
  induction l generalizing s with
  | nil => exact h s ⟨rfl, id, fun _ => ⟨rfl, rfl⟩, fun _ _ _ _ => rfl, id⟩
  | cons e l ih =>
    refine ensures_between fun u hu => ih fun v hv => h v ?_
    exact
      { same := by rw [hv.same, hu.same]; rfl
        inside := fun h0 => hv.inside (hu.inside h0)
        gates := fun ch => (hu.gates ch).trans (hv.gates ch)
        stores := fun a ha hc ho => by
          simp only [List.map_cons, List.mem_cons, not_or] at ha
          rw [hv.stores a ha.2 (hu.calm hc) ((hu.outsideBounds a).trans ho),
            State.load_poke_of_ne _ _ ha.1, hu.stores a hc ho]
        wf := fun hw => hv.wf (State.wf_poke _ _ (hu.wf hw)) }

/-! ## Traps, transfers and restricted instructions -/

/-- Raising a trap with no turn inside is taking it. -/
theorem raise_of_quiet {t : CpuTrap} (hq : s.inside = []) : raise t s = .next (takeTrap t s) :=
  withPokes_of_quiet (t.stores s) hq

/-- The state `t` is a CPU trap's entry from `s`, with whatever turns fall between its stores. -/
def Trapped (c : CpuTrap) (s t : State) : Prop :=
  ∃ u, Poked ((c.stores s).map Prod.fst) s u ∧ t = u.enterAt (locationAddress c.target)

theorem ensures_raise {c : CpuTrap} (h : ∀ t, Trapped c s t → P t) : Ensures (raise c s) P :=
  ensures_withPokes _ fun u hu => ensures_next.2 (h _ ⟨u, hu, rfl⟩)

theorem ensures_transferTo {ea : Addr} (ht : s.ttrap = true → ∀ t, Trapped .transfer s t → P t)
    (h : s.ttrap = false → P { s with pc := ea }) : Ensures (transferTo ea s) P := by
  unfold transferTo; split
  · exact ensures_raise (ht ‹_›)
  · exact ensures_next.2 (h (Bool.eq_false_of_not_eq_true ‹_›))

theorem ensures_transferIf {b : Bool} {ea : Addr} (ht : s.ttrap = true → ∀ t, Trapped .transfer s t → P t)
    (h : P { s with pc := ea }) (h' : P s) : Ensures (transferIf b ea s) P := by
  unfold transferIf; split
  · exact ensures_transferTo ht fun _ => h
  · exact ensures_next.2 h'

theorem transferTo_of_ttrap {ea : Addr} (hq : s.inside = []) (h : s.ttrap = true) :
    transferTo ea s = .next (takeTrap .transfer s) := by simp [transferTo, h, raise_of_quiet hq]

theorem transferTo_of_no_ttrap {ea : Addr} (h : s.ttrap = false) : transferTo ea s = .next { s with pc := ea } := by
  simp [transferTo, h]

theorem ensures_privileged {r : Result} (ht : s.problem = true → ∀ t, Trapped .illegalOperation s t → P t)
    (h : s.problem = false → Ensures r P) : Ensures (privileged s r) P := by
  unfold privileged; split
  · exact ensures_raise (ht ‹_›)
  · exact h (Bool.eq_false_of_not_eq_true ‹_›)

theorem privileged_of_monitor {r : Result} (h : s.problem = false) : privileged s r = r := by
  simp [privileged, h]

theorem privileged_of_problem {r : Result} (hq : s.inside = []) (h : s.problem = true) :
    privileged s r = .next (takeTrap .illegalOperation s) := by simp [privileged, h, raise_of_quiet hq]

/-! ## Checked stores -/

theorem withStore_of_allowed {a : Addr} {w : Word} {k : State → Result} (hq : s.inside = [])
    (h : s.violates a = false) : withStore a w s k = k (s.poke a w) := by
  simp [withStore, between_of_quiet hq, h]

theorem withStore_of_violation {a : Addr} {w : Word} {k : State → Result} (hq : s.inside = [])
    (h : s.violates a = true) : withStore a w s k = .next (takeTrap .protectViolation s) := by
  simp [withStore, between_of_quiet hq, h, raise_of_quiet hq]

theorem ensures_withStore {a : Addr} {w : Word} {k : State → Result}
    (ht : ∀ u t, Between s u → Trapped .protectViolation u t → P t)
    (h : ∀ u, Between s u → u.violates a = false → Ensures (k (u.poke a w)) P) : Ensures (withStore a w s k) P :=
  ensures_between fun u hu => ensures_ite (fun _ => ensures_raise fun t => ht u t hu) fun hv =>
    h u hu (Bool.eq_false_of_not_eq_true hv)

theorem ensures_withUpdate {a : Addr} {f : Word → Word} {k : State → Result}
    (ht : ∀ u t, Between s u → Trapped .protectViolation u t → P t)
    (h : ∀ u w, Between s u → u.violates a = false → Ensures (k (u.poke a w)) P) :
    Ensures (withUpdate a f s k) P :=
  ensures_withWord fun w _ hu => ensures_withStore (fun v t hv => ht v t (hu.trans hv)) fun v hv =>
    h v (f w) (hu.trans hv)

theorem withUpdate_of_allowed {a : Addr} {w : Word} {f : Word → Word} {k : State → Result} (hq : s.inside = [])
    (hw : s.load a = some w) (h : s.violates a = false) : withUpdate a f s k = k (s.poke a (f w)) := by
  rw [withUpdate, withWord_of_load hq hw, withStore_of_allowed hq h]

theorem withUpdate_of_violation {a : Addr} {w : Word} {f : Word → Word} {k : State → Result} (hq : s.inside = [])
    (hw : s.load a = some w) (h : s.violates a = true) :
    withUpdate a f s k = .next (takeTrap .protectViolation s) := by
  rw [withUpdate, withWord_of_load hq hw, withStore_of_violation hq h]

/-- Storing does not move the bounds or the mode. -/
@[simp] theorem State.violates_poke (s : State) (a b : Addr) (w : Word) :
    (s.poke a w).violates b = s.violates b := rfl

/-! ## Floating-point ends and channel selection -/

theorem ensures_afterFloating {i : Instr} {sp : Spill} (ht : ∀ t, Trapped (.floatingPoint i sp) s t → P t)
    (h : P s) : Ensures (afterFloating i sp s) P := by
  unfold afterFloating; split
  · exact ensures_raise ht
  · exact ensures_next.2 h

theorem ensures_withOneChannel {w : Word} {k : ChannelId → Result}
    (ht : s.problem = true → ∀ t, Trapped .illegalOperation s t → P t) (h : ∀ ch, Ensures (k ch) P) :
    Ensures (withOneChannel w s k) P := by
  unfold withOneChannel; split
  · split
    · exact ensures_raise (ht (by simp_all))
    · exact h _
  · exact ensures_refused

/-! ## Where the fixed locations are -/

theorem locationIndex_injective {x y : FixedLocation} (h : locationIndex x = locationIndex y) : x = y := by
  cases x <;> cases y <;> first | rfl | exact absurd h (by decide)

/-- The ten fixed locations are pairwise distinct (D3). -/
theorem locationAddress_injective {x y : FixedLocation} (h : locationAddress x = locationAddress y) : x = y := by
  have h1 := (Equiv.injective Config.fixedLocations) h
  apply locationIndex_injective
  have h2 := congrArg BitVec.toNat h1
  cases x <;> cases y <;> first | rfl | exact absurd h2 (by decide)

@[simp] theorem locationAddress_inj {x y : FixedLocation} : locationAddress x = locationAddress y ↔ x = y :=
  ⟨locationAddress_injective, fun h => by rw [h]⟩

/-- The 24 channel trap locations are pairwise distinct (D3). -/
theorem channelTrapAddress_injective {x y : ChannelId} {j k : TrapKind}
    (h : channelTrapAddress x j = channelTrapAddress y k) : x = y ∧ j = k := by
  have h1 := congrArg BitVec.toNat ((Equiv.injective Config.channelTrapLocations) h)
  have hx := (channelIndex x).isLt
  have hy := (channelIndex y).isLt
  have hj : trapKindIndex j < 3 := by cases j <;> decide
  have hk : trapKindIndex k < 3 := by cases k <;> decide
  rw [BitVec.toNat_ofNat, BitVec.toNat_ofNat, Nat.mod_eq_of_lt (by omega), Nat.mod_eq_of_lt (by omega)] at h1
  have hc : (channelIndex x).val = (channelIndex y).val := by omega
  have ht : trapKindIndex j = trapKindIndex k := by omega
  refine ⟨channelIndex_injective hc, ?_⟩
  cases j <;> cases k <;> first | rfl | exact absurd ht (by decide)

/-! ## Taking a CPU trap -/

/-- Taking a CPU trap changes only storage, the modes and the program counter. -/
theorem takeTrap_eq (t : CpuTrap) (s : State) :
    takeTrap t s =
      { s with
        mem := (takeTrap t s).mem, compat := false, problem := false, ttrap := false
        pc := locationAddress t.target } :=
  congrArg (fun u : State => u.enterAt (locationAddress t.target)) (s.pokes_eq (t.stores s))

@[simp] theorem takeTrap_pc (t : CpuTrap) : (takeTrap t s).pc = locationAddress t.target := rfl
@[simp] theorem takeTrap_ac (t : CpuTrap) : (takeTrap t s).ac = s.ac := by rw [takeTrap_eq]
@[simp] theorem takeTrap_mq (t : CpuTrap) : (takeTrap t s).mq = s.mq := by rw [takeTrap_eq]
@[simp] theorem takeTrap_si (t : CpuTrap) : (takeTrap t s).si = s.si := by rw [takeTrap_eq]
@[simp] theorem takeTrap_xr (t : CpuTrap) : (takeTrap t s).xr = s.xr := by rw [takeTrap_eq]
@[simp] theorem takeTrap_il (t : CpuTrap) : (takeTrap t s).il = s.il := by rw [takeTrap_eq]
@[simp] theorem takeTrap_ov (t : CpuTrap) : (takeTrap t s).ov = s.ov := by rw [takeTrap_eq]
@[simp] theorem takeTrap_ixh (t : CpuTrap) : (takeTrap t s).ixh = s.ixh := by rw [takeTrap_eq]
@[simp] theorem takeTrap_ixl (t : CpuTrap) : (takeTrap t s).ixl = s.ixl := by rw [takeTrap_eq]
@[simp] theorem takeTrap_ixe (t : CpuTrap) : (takeTrap t s).ixe = s.ixe := by rw [takeTrap_eq]
@[simp] theorem takeTrap_lights (t : CpuTrap) : (takeTrap t s).lights = s.lights := by rw [takeTrap_eq]
@[simp] theorem takeTrap_keys (t : CpuTrap) : (takeTrap t s).keys = s.keys := by rw [takeTrap_eq]
@[simp] theorem takeTrap_switches (t : CpuTrap) : (takeTrap t s).switches = s.switches := by rw [takeTrap_eq]
@[simp] theorem takeTrap_halted (t : CpuTrap) : (takeTrap t s).halted = s.halted := by rw [takeTrap_eq]
@[simp] theorem takeTrap_hpr (t : CpuTrap) : (takeTrap t s).hpr = s.hpr := by rw [takeTrap_eq]
@[simp] theorem takeTrap_lpr (t : CpuTrap) : (takeTrap t s).lpr = s.lpr := by rw [takeTrap_eq]
@[simp] theorem takeTrap_car (t : CpuTrap) : (takeTrap t s).car = s.car := by rw [takeTrap_eq]
@[simp] theorem takeTrap_cti (t : CpuTrap) : (takeTrap t s).cti = s.cti := by rw [takeTrap_eq]
@[simp] theorem takeTrap_ictMask (t : CpuTrap) : (takeTrap t s).ictMask = s.ictMask := by rw [takeTrap_eq]
@[simp] theorem takeTrap_channels (t : CpuTrap) : (takeTrap t s).channels = s.channels := by rw [takeTrap_eq]
@[simp] theorem takeTrap_acting (t : CpuTrap) : (takeTrap t s).acting = s.acting := by rw [takeTrap_eq]
@[simp] theorem takeTrap_script (t : CpuTrap) : (takeTrap t s).script = s.script := by rw [takeTrap_eq]
@[simp] theorem takeTrap_outbox (t : CpuTrap) : (takeTrap t s).outbox = s.outbox := by rw [takeTrap_eq]
@[simp] theorem takeTrap_tick (t : CpuTrap) : (takeTrap t s).tick = s.tick := by rw [takeTrap_eq]
@[simp] theorem takeTrap_inside (t : CpuTrap) : (takeTrap t s).inside = s.inside := by rw [takeTrap_eq]
@[simp] theorem takeTrap_compat (t : CpuTrap) : (takeTrap t s).compat = false := by rw [takeTrap_eq]
@[simp] theorem takeTrap_problem (t : CpuTrap) : (takeTrap t s).problem = false := by rw [takeTrap_eq]
@[simp] theorem takeTrap_ttrap (t : CpuTrap) : (takeTrap t s).ttrap = false := by rw [takeTrap_eq]

/-- The addresses a CPU trap stores to are those of R1, R2, R3, R4 and R5. -/
theorem CpuTrap.stores_address (t : CpuTrap) (s : State) {a : Addr} (h : a ∈ (t.stores s).map Prod.fst) :
    ∃ r ∈ [FixedLocation.r1, .r2, .r3, .r4, .r5], a = locationAddress r := by
  cases t <;> simp_all [CpuTrap.stores, CpuTrap.save, CpuTrap.information] <;> tauto

theorem State.pokes_load_of_other (l : List (Addr × Word)) {a : Addr} (h : a ∉ l.map Prod.fst) :
    (s.pokes l).load a = s.load a := by
  induction l generalizing s with
  | nil => rfl
  | cons e l ih =>
    simp only [List.map_cons, List.mem_cons, not_or] at h
    rw [State.pokes_cons, ih h.2, State.load_poke_of_ne _ _ h.1]

/-- A CPU trap stores at R1, R2, R3, R4 or R5 only. -/
theorem takeTrap_load_of_other (t : CpuTrap) {a : Addr}
    (h : ∀ r ∈ [FixedLocation.r1, .r2, .r3, .r4, .r5], a ≠ locationAddress r) :
    (takeTrap t s).load a = s.load a :=
  State.pokes_load_of_other (t.stores s) fun hm =>
    let ⟨r, hr, e⟩ := t.stores_address s hm
    h r hr e

/-! ## The NUMERICS record (R201, D38) -/

@[simp] theorem numerics_fadd : Config.numerics.fadd = fadd := rfl
@[simp] theorem numerics_fmul : Config.numerics.fmul = fmul := rfl
@[simp] theorem numerics_fdiv : Config.numerics.fdiv = fdiv := rfl
@[simp] theorem numerics_fround : Config.numerics.fround = fround := rfl
@[simp] theorem numerics_dfadd : Config.numerics.dfadd = Config.dfadd := rfl
@[simp] theorem numerics_dfmul : Config.numerics.dfmul = Config.dfmul := rfl
@[simp] theorem numerics_dfdiv : Config.numerics.dfdiv = Config.dfdiv := rfl
@[simp] theorem numerics_flt : Config.numerics.flt = flt := rfl
@[simp] theorem numerics_fix : Config.numerics.fix = fix := rfl

theorem fix_of_overflow {w mq : Word} {ac : Acc} (h : fixOverflows w = true) :
    fix w ac mq = { ac := ac, mq := mq, sp := acOverSpill, divCheck := false } := if_pos h

theorem fix_of_fits {w mq : Word} {ac : Acc} (h : fixOverflows w = false) :
    fix w ac mq = { ac := fixInteger w, mq := fixFraction w, sp := noSpill, divCheck := false } := by
  simp [fix, h]

end Sys2Proof.Machine
end

