-- ==== Sys2Proof/Laws/Formed.lean ====
section
/-! SUPPORT. Decoding in the state an instruction runs in: with no turn inside, forming the address of a 370 group first
and giving it to the instruction is the same as running the instruction with its own operand (R121). -/

namespace Sys2Proof.Machine

variable {s : State} {o : Operand} {ea : Addr} {w : Word} {i : Instr}

theorem effectiveAddress_formed : effectiveAddress .double (formedOperand ea) s = .ok ea := by
  simp [effectiveAddress, directAddress, formedOperand, State.x]

/-- A member of a 370 group uses its operand for its effective address alone. -/
theorem exec_formed {r : SelectorRow} (hr : r ∈ plusSelectors ++ minusSelectors) (hq : s.inside = [])
    (h : effectiveAddress .double o s = .ok ea) : exec (r.2 o) s = exec (r.2 (formedOperand ea)) s := by
  have e {k : Addr → State → Result} : withAddress .double o s k = withAddress .double (formedOperand ea) s k :=
    (withAddress_of_ok hq h).trans (withAddress_of_ok hq effectiveAddress_formed).symm
  simp only [plusSelectors, minusSelectors, List.cons_append, List.nil_append, List.mem_cons, List.not_mem_nil,
    or_false] at hr
  rcases hr with rfl | rfl | rfl | rfl | rfl | rfl | rfl | rfl | rfl | rfl | rfl | rfl | rfl | rfl | rfl | rfl | rfl |
    rfl | rfl | rfl | rfl | rfl | rfl | rfl | rfl | rfl | rfl <;>
  · dsimp only [exec, execClm, execLbt, execChs, execSsp, execEnk, execCom, execEtm, execRnd, execFrn, execPse,
      execPbt, execSsm, execLtm, execMse, changeAcc]
    exact e

theorem mem_of_lookup {l : List SelectorRow} {a : Addr} {f : Operand → Instr} (h : l.lookup a = some f) :
    (a, f) ∈ l := by
  induction l with
  | nil => cases h
  | cons r l ih =>
    obtain ⟨b, g⟩ := r
    rw [List.lookup_cons] at h
    split at h
    · next hb => simp_all
    · exact List.mem_cons_of_mem _ (ih h)

/-- Decoding a word with no turn inside runs the instruction it stands for. -/
theorem withDecoded_of_ok (hq : s.inside = [])
    (ha : needsSelector w = true → effectiveAddress .double (operandField w) s = .ok ea)
    (hd : decodeCpu w ea = .ok i) : withDecoded w s exec = exec i s := by
  unfold withDecoded
  split
  · next hn =>
    have hea := ha hn
    rw [withAddress_of_ok hq hea]
    unfold decodeCpu at hd ⊢
    rw [formedWord, operationField_assemble, operandField_assemble]
    rw [needsSelector, Option.isSome_iff_exists] at hn
    obtain ⟨table, ht⟩ := hn
    rw [ht] at hd ⊢
    dsimp only at hd ⊢
    cases hl : table.lookup ea with
    | none => rw [hl] at hd; cases hd
    | some build =>
      rw [hl] at hd
      cases hd
      refine (exec_formed (r := (ea, build)) ?_ hq hea).symm
      have hm := mem_of_lookup hl
      unfold selectorTable at ht
      split at ht
      · cases ht; exact List.mem_append_left _ hm
      · split at ht
        · cases ht; exact List.mem_append_right _ hm
        · cases ht
  · next hn =>
    have h : decodeCpu w 0 = decodeCpu w ea := by
      unfold decodeCpu
      rw [needsSelector, Option.not_isSome_iff_eq_none] at hn
      rw [hn]
    rw [h, hd]
    rfl

/-- Decoding a word outside the 370 groups runs the instruction it stands for, whatever turns are to come. -/
theorem withDecoded_of_plain (hn : needsSelector w = false) (hd : decodeCpu w ea = .ok i) :
    withDecoded w s exec = exec i s := by
  have h : decodeCpu w 0 = decodeCpu w ea := by
    unfold decodeCpu
    rw [needsSelector, Option.isSome_eq_false_iff, Option.isNone_iff_eq_none] at hn
    rw [hn]
  rw [withDecoded, if_neg (by simp [hn]), h, hd]
  rfl

end Sys2Proof.Machine
end

