-- ==== Sys2Proof/Laws/Chains.lean ====
section
/-! SUPPORT. What an operation that reads storage has read when it ends in a next state, turns of other agents included,
and the instruction an XEC that ends in a next state has come to (R77, R106, R254). -/

namespace Sys2Proof.Machine

variable {s t : State}

theorem between_next {k : State → Result} (h : between s k = .next t) : ∃ u, BeforeAccess s u ∧ k u = .next t := by
  unfold between at h
  split at h
  · next hi => exact ⟨s, by rw [BeforeAccess, hi], h⟩
  · next turns rest hi =>
    unfold andThen at h
    split at h
    · next u hu => exact ⟨u, by rw [BeforeAccess, hi]; exact hu, h⟩
    · cases h
    · cases h

theorem withWord_next {a : Addr} {k : Word → State → Result} (h : withWord s a k = .next t) :
    ∃ w u, Reads s a w u ∧ k w u = .next t := by
  obtain ⟨u, hu, h⟩ := between_next h
  cases hl : u.load a with
  | none => rw [readWord_of_none hl] at h; cases h
  | some w => exact ⟨w, u, ⟨hu, hl⟩, by rwa [readWord_of_load hl] at h⟩

theorem withChain_next {n : Nat} {d : Indexing} {o : Operand} {k : Addr → State → Result} (ho : o.f = true)
    (h : withChain n (directAddress d o s) s k = .next t) : ∃ ea u, Addresses d o s ea u ∧ k ea u = .next t := by
  induction n generalizing s d o with
  | zero => cases h
  | succ n ih =>
    obtain ⟨iw, v, hr, h⟩ := withWord_next h
    dsimp only at h
    split at h
    · next hf =>
      obtain ⟨ea, u, ha, h⟩ := ih hf h
      exact ⟨ea, u, .indirect ho hr ha, h⟩
    · next hf => exact ⟨_, v, .indirect ho hr (.direct (Bool.eq_false_of_not_eq_true hf)), h⟩

theorem withAddress_next {d : Indexing} {o : Operand} {k : Addr → State → Result} (h : withAddress d o s k = .next t) :
    ∃ ea u, Addresses d o s ea u ∧ k ea u = .next t := by
  unfold withAddress at h
  split at h
  · next ho => exact withChain_next ho h
  · next ho => exact ⟨_, s, .direct (Bool.eq_false_of_not_eq_true ho), h⟩

theorem withDecoded_next {w : Word} {k : Instr → State → Result} (h : withDecoded w s k = .next t) :
    ∃ i u, Decodes s w i u ∧ k i u = .next t := by
  unfold withDecoded at h
  split at h
  · next hn =>
    obtain ⟨ea, u, ha, h⟩ := withAddress_next h
    unfold onDecoded at h
    split at h
    · next i hd => exact ⟨i, u, .selector hn ha hd, h⟩
    · cases h
    · cases h
  · next hn =>
    unfold onDecoded at h
    split at h
    · next i hd => exact ⟨i, s, .plain (Bool.eq_false_of_not_eq_true hn) hd, h⟩
    · cases h
    · cases h

/-- The table that gives XEC its meaning is `exec` on every other instruction. -/
theorem performWith_of_ne {xec : Operand → State → Result} {i : Instr} (h : ∀ o, i ≠ .xec o) :
    performWith xec i s = exec i s := by
  cases i <;> first | rfl | exact absurd rfl (h _)

/-- An XEC that ends in a next state has come to an instruction that ends in it. -/
theorem runXec_next {n : Nat} {o : Operand} (h : runXec n o s = .next t) :
    ∃ u j, ComesTo s (.xec o) u j ∧ exec j u = .next t := by
  induction n generalizing s o with
  | zero => cases h
  | succ n ih =>
    rw [runXec, withOperand] at h
    obtain ⟨ea, s1, ha, h⟩ := withAddress_next h
    obtain ⟨w, s2, hr, h⟩ := withWord_next h
    obtain ⟨i, s3, hd, h⟩ := withDecoded_next h
    by_cases hx : ∃ p, i = .xec p
    · obtain ⟨p, rfl⟩ := hx
      obtain ⟨u, j, hc, hj⟩ := ih h
      exact ⟨u, j, .object ha hr hd hc, hj⟩
    · have hx : ∀ p, i ≠ .xec p := fun p e => hx ⟨p, e⟩
      rw [performWith_of_ne hx] at h
      exact ⟨s3, i, .object ha hr hd (.here hx), h⟩

/-- Every next state of the processor is that of the instruction it comes to. -/
theorem exec_comesTo {i : Instr} (h : exec i s = .next t) : ∃ u j, ComesTo s i u j ∧ exec j u = .next t := by
  by_cases hx : ∃ o, i = .xec o
  · obtain ⟨o, rfl⟩ := hx
    exact runXec_next h
  · exact ⟨s, i, .here fun o e => hx ⟨o, e⟩, h⟩

end Sys2Proof.Machine
end

