-- ==== Sys2Proof/Laws/Channels.lean ====
section
/-! SUPPORT. Channel masks and selection, operations over several channels, handing a channel to the environment, and the
mode bits of a packed half word. -/

namespace Sys2Proof.Machine

/-! ## Masks and selection -/

theorem maskBit_maskOf (f : ChannelId → Bool) (ch : ChannelId) : maskBit (maskOf f) ch = f ch := by
  have h : ∀ a b c d e g h i j : Bool, ∀ k : Fin 9,
      (BitVec.ofNat 9 ([a, b, c, d, e, g, h, i, j].foldl (fun n x => 2 * n + x.toNat) 0)).getLsbD (8 - k.val) =
        [a, b, c, d, e, g, h, i, j][k.val] := by decide
  cases ch <;> exact h _ _ _ _ _ _ _ _ _ _

/-- SCAR under the default `CAR_LAYOUT`: each channel's bit from its position in a channel select word. -/
theorem maskBit_assignedChannels (w : Word) (ch : ChannelId) :
    maskBit (assignedChannels w) ch = position w (1 + (channelIndex ch).val) := by
  rw [assignedChannels, maskBit_maskOf]; cases ch <;> rfl

theorem maskBit_selectMask (w : Word) (ch : ChannelId) :
    maskBit (selectMask w) ch = position w (1 + (channelIndex ch).val) := by
  cases ch <;> simp [maskBit, selectMask, position, channelIndex]

theorem mem_selected (w : Word) (ch : ChannelId) :
    ch ∈ selected w ↔ position w (1 + (channelIndex ch).val) = true := by
  simp only [selected, List.mem_filter, maskBit_selectMask]
  exact ⟨fun h => h.2, fun h => ⟨by cases ch <;> simp [allChannels], h⟩⟩

theorem selected_nodup (w : Word) : (selected w).Nodup := List.Nodup.filter _ (by decide)

/-! ## Operations over several channels -/

theorem State.setChannel_setChannel (s : State) (ch : ChannelId) (c d : Channel) :
    (s.setChannel ch c).setChannel ch d = s.setChannel ch d := by
  simp [State.setChannel]

theorem forChannels_channel (g : Channel → Channel) {f : ChannelId → State → State}
    (hf : ∀ ch s, f ch s = s.setChannel ch (g (s.channel ch))) (l : List ChannelId) (s : State) (hl : l.Nodup)
    (ch : ChannelId) :
    (forChannels f l s).channel ch = if ch ∈ l then g (s.channel ch) else s.channel ch := by
  induction l generalizing s with
  | nil => rfl
  | cons other l ih =>
    obtain ⟨hc, hl⟩ := List.nodup_cons.1 hl
    rw [forChannels, ih _ hl, hf]
    by_cases h : ch = other
    · subst h; simp [hc]
    · simp [h]

theorem forChannels_eq {f : ChannelId → State → State}
    (hf : ∀ ch s, f ch s = { s with channels := (f ch s).channels }) (l : List ChannelId) (s : State) :
    forChannels f l s = { s with channels := (forChannels f l s).channels } := by
  induction l generalizing s with
  | nil => rfl
  | cons other l ih => rw [forChannels, ih, hf]

/-! ## The special channel (R442) -/

theorem handSpecial_eq (w : Word) (s : State) : handSpecial w s = { s with channels := (handSpecial w s).channels } := by
  unfold handSpecial; split <;> rfl

@[simp] theorem handSpecial_mem (w : Word) (s : State) : (handSpecial w s).mem = s.mem := by rw [handSpecial_eq]

@[simp] theorem handSpecial_load (w : Word) (s : State) (a : Addr) : (handSpecial w s).load a = s.load a := by
  simp [State.load]

/-- Only the special channel is handed over, and only when it is selected. -/
theorem handSpecial_channel (w : Word) (s : State) (ch : ChannelId) :
    (handSpecial w s).channel ch =
      if ch = .special ∧ .special ∈ selected w then { s.channel ch with handed := true } else s.channel ch := by
  unfold handSpecial
  by_cases h : ch = .special
  · subst h; split <;> simp_all
  · split <;> simp [h]

/-- A selection of one other channel hands nothing over. -/
theorem handSpecial_of_other {w : Word} {ch : ChannelId} (s : State) (h : selected w = [ch]) (hc : ch ≠ .special) :
    handSpecial w s = s := by
  simp [handSpecial, h, Ne.symm hc]

/-! ## Mode bits -/

theorem halfPosition_leftHalf (w : Word) (p : Fin 18) : halfPosition (leftHalf w) p = position w p.val := by
  unfold halfPosition position
  rw [getLsbD_leftHalf, show 18 + (17 - p.val) = 35 - p.val by omega]
  have : 17 - p.val < 18 := by omega
  simp [this]

theorem halfPosition_halfBit (p q : Fin 18) (b : Bool) : halfPosition (halfBit p b) q = (decide (p = q) && b) := by
  revert p q b; decide

theorem halfPosition_packModes (a b c : Bool) :
    halfPosition (packModes a b c) Config.msCompatPosition = a ∧
      halfPosition (packModes a b c) Config.msProblemPosition = b ∧
        halfPosition (packModes a b c) Config.msTransferTrapPosition = c := by
  revert a b c; decide

end Sys2Proof.Machine
end

