-- ==== Sys2Proof/Laws/Effect.lean ====
section
/-! SUPPORT. What an instruction can do to what protection guards: one inversion lemma per instruction, and one for
`exec`. Every next state is an ordinary one, the entry of a CPU trap from an ordinary one, or the work of a
restricted instruction in Monitor Mode; the turns of other agents inside the instruction are ordinary. -/

namespace Sys2Proof.Machine

/-- From `s` to `t` no privileged register and no mode bit but TTRAP changes, storage outside the bounds keeps its
words in Problem Program Mode while no channel stores there, and storage stays canonical. -/
structure Ordinary (s t : State) : Prop where
  hpr : t.hpr = s.hpr
  lpr : t.lpr = s.lpr
  car : t.car = s.car
  ictMask : t.ictMask = s.ictMask
  cti : t.cti = s.cti
  compat : t.compat = s.compat
  problem : t.problem = s.problem
  enb : ∀ ch, (t.channel ch).enb = (s.channel ch).enb
  calm : s.problem = true → s.Calm → t.Calm
  stores : ∀ a, s.problem = true → s.Calm → s.outsideBounds a = true → t.load a = s.load a
  wf : s.wf = true → t.wf = true

/-- A change of unguarded fields alone. The proof is a tuple's: comparing `t.wf` with `s.wf` by `rfl` would make the
kernel compare `t` with `s` field by field, arithmetic and all. -/
theorem Ordinary.of_same {s t : State}
    (h : (t.hpr, t.lpr, t.car, t.ictMask, t.cti, t.compat, t.problem, t.channels, t.mem, t.inside) =
      (s.hpr, s.lpr, s.car, s.ictMask, s.cti, s.compat, s.problem, s.channels, s.mem, s.inside)) :
    Ordinary s t := by
  simp only [Prod.mk.injEq] at h
  obtain ⟨h1, h2, h3, h4, h5, h6, h7, h8, h9, h10⟩ := h
  exact
    { hpr := h1, lpr := h2, car := h3, ictMask := h4, cti := h5, compat := h6, problem := h7
      enb := fun ch => by simp only [State.channel, h8]
      calm := fun _ hc => by simpa only [State.Calm, State.channel, h8, h10] using hc
      stores := fun a _ _ _ => by simp only [State.load, h9]
      wf := fun h => by simpa only [State.wf, h9] using h }

theorem Ordinary.refl (s : State) : Ordinary s s := .of_same rfl

theorem Ordinary.trans {s t u : State} (h : Ordinary s t) (g : Ordinary t u) : Ordinary s u where
  hpr := g.hpr.trans h.hpr
  lpr := g.lpr.trans h.lpr
  car := g.car.trans h.car
  ictMask := g.ictMask.trans h.ictMask
  cti := g.cti.trans h.cti
  compat := g.compat.trans h.compat
  problem := g.problem.trans h.problem
  enb ch := (g.enb ch).trans (h.enb ch)
  calm hp hc := g.calm (h.problem.trans hp) (h.calm hp hc)
  stores a hp hc ho := by
    rw [g.stores a (h.problem.trans hp) (h.calm hp hc) (by simpa [State.outsideBounds, h.hpr, h.lpr] using ho),
      h.stores a hp hc ho]
  wf hw := g.wf (h.wf hw)

theorem Ordinary.ite {s t u : State} {c : Prop} [Decidable c] (h : Ordinary s t) (g : Ordinary s u) :
    Ordinary s (if c then t else u) := by split <;> assumption

/-- The turns of other agents before a storage access are ordinary. -/
theorem Between.ordinary {s t : State} (h : Between s t) : Ordinary s t :=
  { hpr := by rw [h.same], lpr := by rw [h.same], car := by rw [h.same], ictMask := by rw [h.same]
    cti := by rw [h.same], compat := by rw [h.same], problem := by rw [h.same]
    enb := fun ch => (h.gates ch).1
    calm := fun _ => h.calm
    stores := fun a _ => h.stores a
    wf := h.wf }

/-- Executing a channel's word is ordinary. -/
theorem Commanded.ordinary {s t : State} (h : Commanded s t) : Ordinary s t :=
  { hpr := by rw [h.same], lpr := by rw [h.same], car := by rw [h.same], ictMask := by rw [h.same]
    cti := by rw [h.same], compat := by rw [h.same], problem := by rw [h.same]
    enb := fun ch => (h.gates ch).1
    calm := fun _ hc => hc.imp (fun hi => by rw [h.same]; exact hi) fun hi ch => (h.gates ch).2.trans (hi ch)
    stores := fun a _ _ _ => by rw [h.same]; rfl
    wf := fun hw => by rw [h.same]; exact hw }

theorem Ordinary.poke {s : State} {a : Addr} (w : Word) (h : s.violates a = false) : Ordinary s (s.poke a w) :=
  { hpr := rfl, lpr := rfl, car := rfl, ictMask := rfl, cti := rfl, compat := rfl, problem := rfl
    enb := fun _ => rfl
    calm := fun _ hc => hc
    stores := by
      intro b hp _ ho
      apply State.load_poke_of_ne
      rintro rfl
      simp [State.violates, hp, ho] at h
    wf := s.wf_poke a w }

theorem Ordinary.setX (s : State) (n : Nat) (v : Addr) : Ordinary s (s.setX n v) := by
  unfold State.setX; split
  · exact .refl s
  · exact .of_same rfl

theorem Ordinary.thenSetX {s u : State} {n : Nat} {v : Addr} (h : Ordinary s u) : Ordinary s (u.setX n v) :=
  h.trans (.setX u n v)

theorem Ordinary.thenSkipIf {s u : State} {b : Bool} (h : Ordinary s u) : Ordinary s (u.skipIf b) :=
  h.trans (.of_same (by simp))

theorem Ordinary.skipIf (s : State) (b : Bool) : Ordinary s (s.skipIf b) := .of_same (by simp)

theorem Ordinary.skipOn (s : State) (r : Relation) : Ordinary s (s.skipOn r) := .of_same (by simp)

theorem Ordinary.compareIndex (s : State) (x d : Addr) : Ordinary s (s.compareIndex x d) := .of_same (by simp)

theorem Ordinary.addToIndex (s : State) (t : BitVec 4) (d : Addr) : Ordinary s (s.addToIndex t d) :=
  .of_same (by simp)

theorem Ordinary.subtractFromIndex (s : State) (t : BitVec 4) (d : Addr) : Ordinary s (s.subtractFromIndex t d) :=
  .of_same (by simp)

theorem Ordinary.loadPairs (n k : Nat) (l : List Word) (s : State) : Ordinary s (loadPairs n k l s) := by
  induction l generalizing k s with
  | nil => exact .refl s
  | cons w l ih =>
    refine .trans ?_ (ih (k + 1) _)
    unfold loadPair
    exact .ite ((Ordinary.setX s _ _).trans (.setX _ _ _)) (.setX s _ _)

theorem Ordinary.restoreProcessor (s : State) (n : Nat) (w0 w1 : Word) (l : List Word) :
    Ordinary s (restoreProcessor n w0 w1 l s) :=
  .trans (.trans (t := loadIndicators w0 (leftHalf w1) s) (.of_same rfl) (.ite (.setX _ _ _) (.refl _))) (.loadPairs _ _ _ _)

theorem Ordinary.setChannel (s : State) (ch : ChannelId) (c : Channel) (h : c.enb = (s.channel ch).enb)
    (hi : s.problem = true → (s.channel ch).inhibit = false → c.inhibit = false) : Ordinary s (s.setChannel ch c) :=
  { hpr := rfl, lpr := rfl, car := rfl, ictMask := rfl, cti := rfl, compat := rfl, problem := rfl
    stores := fun _ _ _ _ => rfl
    wf := id
    calm := fun hp hc => hc.imp id fun hb x => by
      by_cases hx : x = ch
      · subst hx; simpa using hi hp (hb x)
      · simpa [hx] using hb x
    enb := fun x => by
      by_cases hx : x = ch
      · subst hx; simpa using h
      · simp [hx] }

theorem Ordinary.handOver (s : State) (ch : ChannelId) : Ordinary s (s.handOver ch) :=
  .setChannel s ch _ rfl fun _ => id

theorem Ordinary.handSpecial (w : Word) (s : State) : Ordinary s (handSpecial w s) := .ite (.handOver s _) (.refl s)

theorem Ordinary.thenHandSpecial {s u : State} {w : Word} (h : Ordinary s u) : Ordinary s (Machine.handSpecial w u) :=
  h.trans (.handSpecial w u)

theorem State.inhibitFor_of_problem (s : State) (w : Word) (h : s.problem = true) : s.inhibitFor w = false := by
  simp [State.inhibitFor, h]

theorem Ordinary.storeFor (s : State) (ch : ChannelId) (b : Bool) (a : Addr) (w : Word)
    (h : s.problem = true → b = false) : Ordinary s (s.storeFor ch b a w) := by
  unfold State.storeFor; split
  · exact .handOver s ch
  · next hv =>
    refine .poke w ?_
    cases hp : s.problem <;> simp_all [State.violates, State.channelViolates]

theorem Ordinary.requestHalt (ch : ChannelId) (s : State) : Ordinary s (requestHalt ch s) :=
  .ite (.setChannel s ch _ rfl fun _ => id) (.refl s)

theorem Ordinary.forChannels {f : ChannelId → State → State} (h : ∀ ch s, Ordinary s (f ch s))
    (l : List ChannelId) (s : State) : Ordinary s (forChannels f l s) := by
  induction l generalizing s with
  | nil => exact .refl s
  | cons ch l ih => exact (h ch s).trans (ih _)

theorem forChannels_mem {f : ChannelId → State → State} (h : ∀ ch s, (f ch s).mem = s.mem) (l : List ChannelId)
    (s : State) : (forChannels f l s).mem = s.mem := by
  induction l generalizing s with
  | nil => rfl
  | cons ch l ih => exact (ih _).trans (h ch s)

/-- What the next state of an instruction run in `s` can be. -/
inductive Effect (s : State) : State → Prop
  | ordinary {t : State} : Ordinary s t → Effect s t
  | trap {u t : State} (c : CpuTrap) : Ordinary s u → c.target ≠ .r8 → Trapped c u t → Effect s t
  | monitor {t : State} : s.problem = false → (s.wf = true → t.wf = true) → Effect s t

theorem Effect.after {s u t : State} (h : Ordinary s u) (e : Effect u t) : Effect s t :=
  match e with
  | .ordinary g => .ordinary (h.trans g)
  | .trap c g hc ht => .trap c (h.trans g) hc ht
  | .monitor hp hw => .monitor (h.problem.symm.trans hp) fun w => hw (h.wf w)

variable (s : State)

theorem effect_next {s t : State} (h : Ordinary s t) : Ensures (.next t) (Effect s) := ensures_next.2 (.ordinary h)

theorem effect_raise {s u : State} (c : CpuTrap) (h : Ordinary s u) (hc : c.target ≠ .r8) :
    Ensures (raise c u) (Effect s) := ensures_raise fun _ ht => .trap c h hc ht

/-! ## Storage accesses: what follows is judged from the state the access leaves -/

theorem effect_between {s : State} {k : State → Result} (h : ∀ u, Ensures (k u) (Effect u)) :
    Ensures (between s k) (Effect s) := ensures_between fun u hu => (h u).mono fun _ e => e.after hu.ordinary

theorem effect_withWord {s : State} {a : Addr} {k : Word → State → Result} (h : ∀ w u, Ensures (k w u) (Effect u)) :
    Ensures (withWord s a k) (Effect s) :=
  ensures_withWord fun w u hu => (h w u).mono fun _ e => e.after hu.ordinary

theorem effect_withDouble {s : State} {a : Addr} {k : Word → Word → State → Result}
    (h : ∀ w0 w1 u, Ensures (k w0 w1 u) (Effect u)) : Ensures (withDouble s a k) (Effect s) :=
  ensures_withDouble fun w0 w1 u hu => (h w0 w1 u).mono fun _ e => e.after hu.ordinary

theorem effect_withWords {s : State} {n : Nat} {a : Addr} {k : List Word → State → Result}
    (h : ∀ l u, Ensures (k l u) (Effect u)) : Ensures (withWords s n a k) (Effect s) :=
  ensures_withWords n a fun l u _ hu => (h l u).mono fun _ e => e.after hu.ordinary

theorem effect_withAddress {s : State} {d : Indexing} {o : Operand} {k : Addr → State → Result}
    (h : ∀ ea u, Ensures (k ea u) (Effect u)) : Ensures (withAddress d o s k) (Effect s) :=
  ensures_withAddress fun ea u hu => (h ea u).mono fun _ e => e.after hu.ordinary

theorem effect_withOperand {s : State} {o : Operand} {k : Word → State → Result}
    (h : ∀ w u, Ensures (k w u) (Effect u)) : Ensures (withOperand o s k) (Effect s) :=
  effect_withAddress fun _ _ => effect_withWord h

theorem effect_withDoubleOperand {s : State} {o : Operand} {k : Word → Word → State → Result}
    (h : ∀ w0 w1 u, Ensures (k w0 w1 u) (Effect u)) : Ensures (withDoubleOperand o s k) (Effect s) :=
  effect_withAddress fun _ _ => effect_withDouble h

theorem effect_withIndexOperand {s : State} {o : Operand} {k : Word → State → Result}
    (h : ∀ w u, Ensures (k w u) (Effect u)) : Ensures (withIndexOperand o s k) (Effect s) :=
  effect_withAddress fun _ _ => effect_withWord h

theorem effect_withStore {s : State} {a : Addr} {w : Word} {k : State → Result} (h : ∀ u, Ensures (k u) (Effect u)) :
    Ensures (withStore a w s k) (Effect s) :=
  ensures_withStore (fun _ _ hu ht => .trap _ hu.ordinary (by decide) ht) fun _ hu hv =>
    (h _).mono fun _ e => e.after (hu.ordinary.trans (.poke w hv))

theorem effect_withUpdate {s : State} {a : Addr} {f : Word → Word} {k : State → Result}
    (h : ∀ u, Ensures (k u) (Effect u)) : Ensures (withUpdate a f s k) (Effect s) :=
  effect_withWord fun _ _ => effect_withStore h

theorem effect_withStores {s : State} {k : State → Result} (l : List Word) (a : Addr)
    (h : ∀ u, Ensures (k u) (Effect u)) : Ensures (withStores a l s k) (Effect s) := by
  induction l generalizing a s with
  | nil => exact h s
  | cons w l ih => exact effect_withStore fun _ => ih (a + 1)

theorem effect_done (t : State) : Ensures (.next t) (Effect t) := effect_next (.refl t)

theorem effect_storeOperand (o : Operand) (w : Word) : Ensures (storeOperand o w s) (Effect s) :=
  effect_withAddress fun _ _ => effect_withStore effect_done

theorem effect_updateOperand (o : Operand) (f : Word → Word) : Ensures (updateOperand o f s) (Effect s) :=
  effect_withAddress fun _ _ => effect_withUpdate effect_done

theorem effect_updateIndexOperand (o : Operand) (f : Word → Word) : Ensures (updateIndexOperand o f s) (Effect s) :=
  effect_withAddress fun _ _ => effect_withUpdate effect_done

theorem effect_storeDouble (o : Operand) (w0 w1 : Word) : Ensures (storeDouble o w0 w1 s) (Effect s) :=
  effect_withAddress fun _ _ => effect_withStores _ _ effect_done

theorem effect_afterFloating {s u : State} (i : Instr) (sp : Spill) (h : Ordinary s u) :
    Ensures (afterFloating i sp u) (Effect s) :=
  ensures_afterFloating (fun _ => .trap _ h (show FixedLocation.r6 ≠ .r8 by decide)) (.ordinary h)

theorem Ordinary.setPc {s u : State} (h : Ordinary s u) (ea : Addr) : Ordinary s { u with pc := ea } := h.trans (.of_same rfl)

theorem effect_transferTo {s u : State} (ea : Addr) (h : Ordinary s u) : Ensures (transferTo ea u) (Effect s) :=
  ensures_transferTo (fun _ _ => .trap _ h (by decide)) fun _ => .ordinary (h.setPc ea)

theorem effect_transferIf {s u : State} (b : Bool) (ea : Addr) (h : Ordinary s u) :
    Ensures (transferIf b ea u) (Effect s) :=
  ensures_transferIf (fun _ _ => .trap _ h (by decide)) (.ordinary (h.setPc ea)) (.ordinary h)

theorem effect_privileged {s : State} (r : Result) (h : s.problem = false → Ensures r (Effect s)) :
    Ensures (privileged s r) (Effect s) := ensures_privileged (fun _ _ => .trap _ (.refl s) (by decide)) h

/-- A restricted instruction that reads one word. -/
theorem effect_restricted {s : State} {a : Addr} {k : Word → State → Result}
    (h : ∀ w u, Ensures (k w u) fun t => u.wf = true → t.wf = true) :
    Ensures (privileged s (withWord s a k)) (Effect s) :=
  effect_privileged _ fun hp => ensures_withWord fun w u hu => (h w u).mono fun _ g => .monitor hp fun hw => g (hu.wf hw)

theorem effect_plusSense (ea : Addr) : Ensures (plusSense ea s) (Effect s) :=
  ensures_ite (fun _ => effect_next (.of_same rfl)) fun _ => ensures_ite (fun _ => effect_next (.of_same rfl)) fun _ =>
    ensures_ite (fun _ => effect_next (.skipIf s _)) fun _ => ensures_refused

theorem effect_minusSense (ea : Addr) : Ensures (minusSense ea s) (Effect s) :=
  ensures_ite (fun _ => ensures_ite (fun _ => effect_next (.of_same rfl)) fun _ => effect_next (.of_same rfl)) fun _ => ensures_refused

theorem effect_withOneChannel {s : State} (w : Word) {k : ChannelId → Result} (h : ∀ ch, Ensures (k ch) (Effect s)) :
    Ensures (withOneChannel w s k) (Effect s) := ensures_withOneChannel (fun _ _ => .trap _ (.refl s) (by decide)) h

theorem effect_startChannel (ch : ChannelId) (w : Word) : Ensures (startChannel ch w s) (Effect s) :=
  ensures_ite
    (fun _ => effect_next (.trans
      (.setChannel s ch (Channel.started _ _ _ _ _) rfl fun hp _ => s.inhibitFor_of_problem w hp) (.of_same rfl)))
    fun _ => effect_withWord fun _ s => effect_next (.trans
      (.setChannel s ch (Channel.started _ _ _ _ _) rfl fun hp _ => s.inhibitFor_of_problem w hp) (.of_same rfl))

theorem effect_commanded {r : Result} (h : Ensures r (Commanded s)) : Ensures r (Effect s) :=
  h.mono fun _ g => .ordinary g.ordinary

/-! ## Operations shared by several instructions -/

theorem effect_withCount {s : State} {o : Operand} {k : Nat → State → Result}
    (h : ∀ n u, Ensures (k n u) (Effect u)) : Ensures (withCount o s k) (Effect s) :=
  effect_withAddress fun ea => h (shiftCount ea)

theorem effect_indexFromAddress (f : Addr → Addr) (o : Operand) : Ensures (indexFromAddress f o s) (Effect s) :=
  effect_withAddress fun _ u => effect_next (.setX u _ _)

theorem effect_accFromIndex (a : Acc) (o : Operand) : Ensures (accFromIndex a o s) (Effect s) :=
  effect_withAddress fun _ _ => effect_next (.of_same rfl)

theorem effect_changeIndicators (w : Word) (o : Operand) : Ensures (changeIndicators w o s) (Effect s) :=
  effect_withAddress fun _ _ => effect_next (.of_same rfl)

theorem effect_maskIndicators (f : Word → Addr → Word) (o : Operand) : Ensures (maskIndicators f o s) (Effect s) :=
  effect_withAddress fun _ _ => effect_next (.of_same rfl)

theorem effect_testIndicators (f : Word → Addr → Bool) (o : Operand) : Ensures (testIndicators f o s) (Effect s) :=
  effect_withAddress fun _ u => effect_next (.skipIf u _)

theorem effect_changeAcc (f : Acc → Acc) (o : Operand) : Ensures (changeAcc f o s) (Effect s) :=
  effect_withAddress fun _ _ => effect_next (.of_same rfl)

theorem effect_closeLoop (rel : Addr → Addr → Bool) (o : Operand) : Ensures (closeLoop rel o s) (Effect s) :=
  effect_withAddress fun _ u => effect_transferIf _ _ (.setX u _ _)

/-- The two stores of SCH. -/
theorem effect_storePair (ch : ChannelId) (w v0 v1 : Word) :
    Ensures (between (s.storeFor ch (s.inhibitFor w) (rightHalf w) v0) fun u =>
      .next (handSpecial w (u.storeFor ch (s.inhibitFor w) (rightHalf w + 1) v1))) (Effect s) :=
  ensures_between fun u hu =>
    have h := (Ordinary.storeFor s ch _ (rightHalf w) v0 (s.inhibitFor_of_problem w)).trans hu.ordinary
    effect_next (h.trans (.thenHandSpecial (.storeFor u ch _ _ v1 fun hp =>
      s.inhibitFor_of_problem w (h.problem.symm.trans hp))))

/-! ## Each instruction -/


theorem effect_execCla (o : Operand) : Ensures (execCla o s) (Effect s) :=
  effect_withOperand fun _ _ => effect_next (.of_same rfl)

theorem effect_execCal (o : Operand) : Ensures (execCal o s) (Effect s) :=
  effect_withOperand fun _ _ => effect_next (.of_same rfl)

theorem effect_execCls (o : Operand) : Ensures (execCls o s) (Effect s) :=
  effect_withOperand fun _ _ => effect_next (.of_same rfl)

theorem effect_execLla (o : Operand) : Ensures (execLla o s) (Effect s) :=
  effect_withOperand fun _ _ => effect_next (.of_same rfl)

theorem effect_execLra (o : Operand) : Ensures (execLra o s) (Effect s) :=
  effect_withOperand fun _ _ => effect_next (.of_same rfl)

theorem effect_execLdq (o : Operand) : Ensures (execLdq o s) (Effect s) :=
  effect_withOperand fun _ _ => effect_next (.of_same rfl)

theorem effect_execDla (o : Operand) : Ensures (execDla o s) (Effect s) :=
  effect_withDoubleOperand fun _ _ _ => effect_next (.of_same rfl)

theorem effect_execDlld (o : Operand) : Ensures (execDlld o s) (Effect s) :=
  effect_withDoubleOperand fun _ _ _ => effect_next (.of_same rfl)

theorem effect_execDldn (o : Operand) : Ensures (execDldn o s) (Effect s) :=
  effect_withDoubleOperand fun _ _ _ => effect_next (.of_same rfl)

theorem effect_execSto (o : Operand) : Ensures (execSto o s) (Effect s) :=
  effect_storeOperand s o _

theorem effect_execSlw (o : Operand) : Ensures (execSlw o s) (Effect s) :=
  effect_storeOperand s o _

theorem effect_execStal (o : Operand) : Ensures (execStal o s) (Effect s) :=
  effect_updateOperand s o _

theorem effect_execStar (o : Operand) : Ensures (execStar o s) (Effect s) :=
  effect_updateOperand s o _

theorem effect_execStan (o : Operand) : Ensures (execStan o s) (Effect s) :=
  effect_storeOperand s o _

theorem effect_execStq (o : Operand) : Ensures (execStq o s) (Effect s) :=
  effect_storeOperand s o _

theorem effect_execSlq (o : Operand) : Ensures (execSlq o s) (Effect s) :=
  effect_updateOperand s o _

theorem effect_execDst (o : Operand) : Ensures (execDst o s) (Effect s) :=
  effect_storeDouble s o _ _

theorem effect_execDlsf (o : Operand) : Ensures (execDlsf o s) (Effect s) :=
  effect_storeDouble s o _ _

theorem effect_execDstn (o : Operand) : Ensures (execDstn o s) (Effect s) :=
  effect_storeDouble s o _ _

theorem effect_execStz (o : Operand) : Ensures (execStz o s) (Effect s) :=
  effect_storeOperand s o _

theorem effect_execStl (o : Operand) : Ensures (execStl o s) (Effect s) :=
  effect_updateOperand s o _

theorem effect_execXca (o : Operand) : Ensures (execXca o s) (Effect s) :=
  effect_withAddress fun _ _ => effect_next (.of_same rfl)

theorem effect_execXcl (o : Operand) : Ensures (execXcl o s) (Effect s) :=
  effect_withAddress fun _ _ => effect_next (.of_same rfl)

theorem effect_execEnk (o : Operand) : Ensures (execEnk o s) (Effect s) :=
  effect_withAddress fun _ _ => effect_next (.of_same rfl)

theorem effect_execScpu (o : Operand) : Ensures (execScpu o s) (Effect s) :=
  effect_withAddress fun _ _ => effect_withStores _ _ effect_done

theorem effect_execRcpu (o : Operand) : Ensures (execRcpu o s) (Effect s) :=
  effect_withAddress fun _ _ => effect_withDouble fun _ _ _ => effect_withWords fun _ s =>
    effect_next (.restoreProcessor s _ _ _ _)

theorem effect_execAdd (o : Operand) : Ensures (execAdd o s) (Effect s) :=
  effect_withOperand fun _ _ => effect_next (.of_same rfl)

theorem effect_execAdm (o : Operand) : Ensures (execAdm o s) (Effect s) :=
  effect_withOperand fun _ _ => effect_next (.of_same rfl)

theorem effect_execAcl (o : Operand) : Ensures (execAcl o s) (Effect s) :=
  effect_withOperand fun _ _ => effect_next (.of_same rfl)

theorem effect_execSub (o : Operand) : Ensures (execSub o s) (Effect s) :=
  effect_withOperand fun _ _ => effect_next (.of_same rfl)

theorem effect_execSbm (o : Operand) : Ensures (execSbm o s) (Effect s) :=
  effect_withOperand fun _ _ => effect_next (.of_same rfl)

theorem effect_execMpy (o : Operand) : Ensures (execMpy o s) (Effect s) :=
  effect_withOperand fun _ _ => effect_next (.of_same rfl)

theorem effect_execMpr (o : Operand) : Ensures (execMpr o s) (Effect s) :=
  effect_withOperand fun _ _ => effect_next (.of_same (by unfold roundProduct; split <;> rfl))

theorem effect_execImp (o : Operand) : Ensures (execImp o s) (Effect s) :=
  effect_withAddress fun _ _ => ensures_ite (fun _ => effect_withWord fun _ _ => effect_next (.of_same (by unfold integerMultiply; simp only; split <;> rfl)))
    fun _ => ensures_refused

theorem effect_execVlm (o : Operand) : Ensures (execVlm o s) (Effect s) :=
  effect_withAddress fun _ _ => ensures_ite (fun _ => effect_next (.of_same rfl)) fun _ => effect_withWord fun _ _ => effect_next (.of_same rfl)

theorem effect_execRnd (o : Operand) : Ensures (execRnd o s) (Effect s) :=
  effect_withAddress fun _ _ => effect_next (.of_same (by split <;> rfl))

theorem effect_execDvt (o : Operand) : Ensures (execDvt o s) (Effect s) :=
  effect_withOperand fun _ s => ensures_ite (fun _ => effect_raise _ (.refl s) (by decide)) fun _ =>
    effect_next (.of_same rfl)

theorem effect_execIdv (o : Operand) : Ensures (execIdv o s) (Effect s) :=
  effect_withAddress fun _ _ => ensures_ite
    (fun _ => effect_withWord fun _ s => ensures_ite (fun _ => effect_raise _ (.refl s) (by decide)) fun _ => effect_next (.of_same rfl))
    fun _ => ensures_refused

theorem effect_execVdt (o : Operand) : Ensures (execVdt o s) (Effect s) :=
  effect_withAddress fun _ _ => ensures_ite (fun _ => effect_next (.of_same rfl)) fun _ =>
    effect_withWord fun _ s => ensures_ite (fun _ => effect_raise _ (.refl s) (by decide)) fun _ => effect_next (.of_same rfl)

theorem effect_execFad (o : Operand) : Ensures (execFad o s) (Effect s) :=
  effect_withOperand fun _ _ => effect_afterFloating _ _ (.of_same rfl)

theorem effect_execFam (o : Operand) : Ensures (execFam o s) (Effect s) :=
  effect_withOperand fun _ _ => effect_afterFloating _ _ (.of_same rfl)

theorem effect_execUfa (o : Operand) : Ensures (execUfa o s) (Effect s) :=
  effect_withOperand fun _ _ => effect_afterFloating _ _ (.of_same rfl)

theorem effect_execUam (o : Operand) : Ensures (execUam o s) (Effect s) :=
  effect_withOperand fun _ _ => effect_afterFloating _ _ (.of_same rfl)

theorem effect_execFsb (o : Operand) : Ensures (execFsb o s) (Effect s) :=
  effect_withOperand fun _ _ => effect_afterFloating _ _ (.of_same rfl)

theorem effect_execFsm (o : Operand) : Ensures (execFsm o s) (Effect s) :=
  effect_withOperand fun _ _ => effect_afterFloating _ _ (.of_same rfl)

theorem effect_execUfs (o : Operand) : Ensures (execUfs o s) (Effect s) :=
  effect_withOperand fun _ _ => effect_afterFloating _ _ (.of_same rfl)

theorem effect_execUsm (o : Operand) : Ensures (execUsm o s) (Effect s) :=
  effect_withOperand fun _ _ => effect_afterFloating _ _ (.of_same rfl)

theorem effect_execFmp (o : Operand) : Ensures (execFmp o s) (Effect s) :=
  effect_withOperand fun _ _ => effect_afterFloating _ _ (.of_same rfl)

theorem effect_execUfm (o : Operand) : Ensures (execUfm o s) (Effect s) :=
  effect_withOperand fun _ _ => effect_afterFloating _ _ (.of_same rfl)

theorem effect_execFrn (o : Operand) : Ensures (execFrn o s) (Effect s) :=
  effect_withAddress fun _ _ => effect_afterFloating _ _ (.of_same rfl)

theorem effect_execFdt (o : Operand) : Ensures (execFdt o s) (Effect s) :=
  effect_withOperand fun _ s => ensures_ite (fun _ => effect_raise _ (.refl s) (by decide)) fun _ =>
    effect_afterFloating _ _ (.of_same rfl)

theorem effect_execFdh (o : Operand) : Ensures (execFdh o s) (Effect s) :=
  effect_withOperand fun _ s => ensures_ite (fun _ => effect_raise _ (.refl s) (by decide)) fun _ =>
    effect_afterFloating _ _ (.of_same rfl)

theorem effect_execFrd (o : Operand) : Ensures (execFrd o s) (Effect s) :=
  effect_withAddress fun _ _ => ensures_ite
    (fun _ => effect_withWord fun _ s => ensures_ite (fun _ => effect_raise _ (.refl s) (by decide)) fun _ =>
      effect_afterFloating _ _ (.of_same rfl))
    fun _ => ensures_refused

theorem effect_execAdxp (o : Operand) : Ensures (execAdxp o s) (Effect s) :=
  effect_withAddress fun _ _ => effect_afterFloating _ _ (.of_same rfl)

theorem effect_execDfad (o : Operand) : Ensures (execDfad o s) (Effect s) :=
  effect_withDoubleOperand fun _ _ _ => effect_afterFloating _ _ (.of_same rfl)

theorem effect_execDfam (o : Operand) : Ensures (execDfam o s) (Effect s) :=
  effect_withDoubleOperand fun _ _ _ => effect_afterFloating _ _ (.of_same rfl)

theorem effect_execDufa (o : Operand) : Ensures (execDufa o s) (Effect s) :=
  effect_withDoubleOperand fun _ _ _ => effect_afterFloating _ _ (.of_same rfl)

theorem effect_execDuam (o : Operand) : Ensures (execDuam o s) (Effect s) :=
  effect_withDoubleOperand fun _ _ _ => effect_afterFloating _ _ (.of_same rfl)

theorem effect_execDfsb (o : Operand) : Ensures (execDfsb o s) (Effect s) :=
  effect_withDoubleOperand fun _ _ _ => effect_afterFloating _ _ (.of_same rfl)

theorem effect_execDfsm (o : Operand) : Ensures (execDfsm o s) (Effect s) :=
  effect_withDoubleOperand fun _ _ _ => effect_afterFloating _ _ (.of_same rfl)

theorem effect_execDufs (o : Operand) : Ensures (execDufs o s) (Effect s) :=
  effect_withDoubleOperand fun _ _ _ => effect_afterFloating _ _ (.of_same rfl)

theorem effect_execDusm (o : Operand) : Ensures (execDusm o s) (Effect s) :=
  effect_withDoubleOperand fun _ _ _ => effect_afterFloating _ _ (.of_same rfl)

theorem effect_execDfmp (o : Operand) : Ensures (execDfmp o s) (Effect s) :=
  effect_withDoubleOperand fun _ _ _ => effect_afterFloating _ _ (.of_same rfl)

theorem effect_execDufm (o : Operand) : Ensures (execDufm o s) (Effect s) :=
  effect_withDoubleOperand fun _ _ _ => effect_afterFloating _ _ (.of_same rfl)

theorem effect_execDfdt (o : Operand) : Ensures (execDfdt o s) (Effect s) :=
  effect_withDoubleOperand fun _ _ s => ensures_ite
    (fun _ => effect_raise (u := scratchIndicators s) _ (.of_same rfl) (by decide)) fun _ => effect_afterFloating _ _ (.of_same rfl)

theorem effect_execDfrd (o : Operand) : Ensures (execDfrd o s) (Effect s) :=
  effect_withDoubleOperand fun _ _ s => ensures_ite
    (fun _ => effect_raise (u := scratchIndicators s) _ (.of_same rfl) (by decide)) fun _ => effect_afterFloating _ _ (.of_same rfl)

theorem effect_execAls (o : Operand) : Ensures (execAls o s) (Effect s) :=
  effect_withCount fun _ _ => effect_next (.of_same rfl)

theorem effect_execArs (o : Operand) : Ensures (execArs o s) (Effect s) :=
  effect_withCount fun _ _ => effect_next (.of_same rfl)

theorem effect_execLls (o : Operand) : Ensures (execLls o s) (Effect s) :=
  effect_withCount fun _ _ => effect_next (.of_same rfl)

theorem effect_execLrs (o : Operand) : Ensures (execLrs o s) (Effect s) :=
  effect_withCount fun _ _ => effect_next (.of_same rfl)

theorem effect_execLgl (o : Operand) : Ensures (execLgl o s) (Effect s) :=
  effect_withCount fun _ _ => effect_next (.of_same rfl)

theorem effect_execLgr (o : Operand) : Ensures (execLgr o s) (Effect s) :=
  effect_withCount fun _ _ => effect_next (.of_same rfl)

theorem effect_execRql (o : Operand) : Ensures (execRql o s) (Effect s) :=
  effect_withCount fun _ _ => effect_next (.of_same rfl)

theorem effect_execNop (o : Operand) : Ensures (execNop o s) (Effect s) :=
  effect_withAddress fun _ _ => effect_next (.of_same rfl)

theorem effect_execHpr (o : Operand) : Ensures (execHpr o s) (Effect s) :=
  effect_withAddress fun _ _ => effect_next (.of_same rfl)

theorem effect_execHtr (o : Operand) : Ensures (execHtr o s) (Effect s) :=
  effect_withAddress fun _ s => effect_transferTo (u := { s with halted := true }) _ (.of_same rfl)

theorem effect_execTra (o : Operand) : Ensures (execTra o s) (Effect s) :=
  effect_withAddress fun _ s => effect_transferIf _ _ (.refl s)

theorem effect_execTtr (o : Operand) : Ensures (execTtr o s) (Effect s) :=
  effect_withAddress fun _ _ => effect_next (.of_same rfl)

theorem effect_execTze (o : Operand) : Ensures (execTze o s) (Effect s) :=
  effect_withAddress fun _ s => effect_transferIf _ _ (.refl s)

theorem effect_execTnz (o : Operand) : Ensures (execTnz o s) (Effect s) :=
  effect_withAddress fun _ s => effect_transferIf _ _ (.refl s)

theorem effect_execTpl (o : Operand) : Ensures (execTpl o s) (Effect s) :=
  effect_withAddress fun _ s => effect_transferIf _ _ (.refl s)

theorem effect_execTmi (o : Operand) : Ensures (execTmi o s) (Effect s) :=
  effect_withAddress fun _ s => effect_transferIf _ _ (.refl s)

theorem effect_execTzm (o : Operand) : Ensures (execTzm o s) (Effect s) :=
  effect_withAddress fun _ s => effect_transferIf _ _ (.refl s)

theorem effect_execTzp (o : Operand) : Ensures (execTzp o s) (Effect s) :=
  effect_withAddress fun _ s => effect_transferIf _ _ (.refl s)

theorem effect_execTgz (o : Operand) : Ensures (execTgz o s) (Effect s) :=
  effect_withAddress fun _ s => effect_transferIf _ _ (.refl s)

theorem effect_execTlz (o : Operand) : Ensures (execTlz o s) (Effect s) :=
  effect_withAddress fun _ s => effect_transferIf _ _ (.refl s)

theorem effect_execTov (o : Operand) : Ensures (execTov o s) (Effect s) :=
  effect_withAddress fun _ s => effect_transferIf (u := { s with ov := false }) _ _ (.of_same rfl)

theorem effect_execTno (o : Operand) : Ensures (execTno o s) (Effect s) :=
  effect_withAddress fun _ s => effect_transferIf (u := { s with ov := false }) _ _ (.of_same rfl)

theorem effect_execTqp (o : Operand) : Ensures (execTqp o s) (Effect s) :=
  effect_withAddress fun _ s => effect_transferIf _ _ (.refl s)

theorem effect_execTlq (o : Operand) : Ensures (execTlq o s) (Effect s) :=
  effect_withAddress fun _ s => effect_transferIf _ _ (.refl s)

theorem effect_execPse (o : Operand) : Ensures (execPse o s) (Effect s) :=
  effect_withAddress fun _ s => effect_plusSense s _

theorem effect_execMse (o : Operand) : Ensures (execMse o s) (Effect s) :=
  effect_withAddress fun _ s => effect_minusSense s _

theorem effect_execPbt (o : Operand) : Ensures (execPbt o s) (Effect s) :=
  effect_withAddress fun _ s => effect_next (.skipIf s _)

theorem effect_execLbt (o : Operand) : Ensures (execLbt o s) (Effect s) :=
  effect_withAddress fun _ s => effect_next (.skipIf s _)

theorem effect_execZet (o : Operand) : Ensures (execZet o s) (Effect s) :=
  effect_withOperand fun _ s => effect_next (.skipIf s _)

theorem effect_execNzt (o : Operand) : Ensures (execNzt o s) (Effect s) :=
  effect_withOperand fun _ s => effect_next (.skipIf s _)

theorem effect_execCas (o : Operand) : Ensures (execCas o s) (Effect s) :=
  effect_withOperand fun _ s => effect_next (.skipOn s _)

theorem effect_execLas (o : Operand) : Ensures (execLas o s) (Effect s) :=
  effect_withOperand fun _ s => effect_next (.skipOn s _)

theorem effect_execTsl (o : Operand) : Ensures (execTsl o s) (Effect s) :=
  effect_withAddress fun _ _ => effect_withUpdate fun s => effect_transferTo _ (.refl s)

theorem effect_execSmp (o : Operand) : Ensures (execSmp o s) (Effect s) :=
  effect_withAddress fun _ _ => effect_restricted fun _ _ => ensures_next.2 id

theorem effect_execEtm (o : Operand) : Ensures (execEtm o s) (Effect s) :=
  effect_withAddress fun _ _ => effect_next (.of_same rfl)

theorem effect_execLtm (o : Operand) : Ensures (execLtm o s) (Effect s) :=
  effect_withAddress fun _ _ => effect_next (.of_same rfl)

theorem effect_execLtmr (o : Operand) : Ensures (execLtmr o s) (Effect s) :=
  effect_withAddress fun _ _ => ensures_refused

theorem effect_execStmr (o : Operand) : Ensures (execStmr o s) (Effect s) :=
  effect_withAddress fun _ _ => ensures_refused

theorem effect_execLrtc (o : Operand) : Ensures (execLrtc o s) (Effect s) :=
  effect_withAddress fun _ _ => ensures_refused

theorem effect_execSrtc (o : Operand) : Ensures (execSrtc o s) (Effect s) :=
  effect_withAddress fun _ _ => ensures_refused

theorem effect_execCtr (o : Operand) : Ensures (execCtr o s) (Effect s) :=
  effect_withAddress fun _ _ => effect_restricted fun w _ => ensures_between fun _ hu =>
    ensures_next.2 fun hw => State.wf_returnFromChannelTrap w (hu.wf hw)

theorem effect_execPtr (o : Operand) : Ensures (execPtr o s) (Effect s) :=
  effect_withAddress fun _ _ => effect_restricted fun _ _ => ensures_next.2 id

theorem effect_execScar (o : Operand) : Ensures (execScar o s) (Effect s) :=
  effect_withAddress fun _ _ => effect_restricted fun _ _ => ensures_next.2 id

theorem effect_execCmon (o : Operand) : Ensures (execCmon o s) (Effect s) :=
  effect_withAddress fun ea s => effect_raise (.monitorCall ea) (.refl s) (show FixedLocation.r10 ≠ .r8 by decide)

theorem effect_execAxi (o : Operand) : Ensures (execAxi o s) (Effect s) :=
  effect_indexFromAddress s _ o

theorem effect_execAxc (o : Operand) : Ensures (execAxc o s) (Effect s) :=
  effect_indexFromAddress s _ o

theorem effect_execPax (o : Operand) : Ensures (execPax o s) (Effect s) :=
  effect_withAddress fun _ s => effect_next (.setX s _ _)

theorem effect_execPac (o : Operand) : Ensures (execPac o s) (Effect s) :=
  effect_withAddress fun _ s => effect_next (.setX s _ _)

theorem effect_execPxa (o : Operand) : Ensures (execPxa o s) (Effect s) :=
  effect_accFromIndex s _ o

theorem effect_execPxd (o : Operand) : Ensures (execPxd o s) (Effect s) :=
  effect_accFromIndex s _ o

theorem effect_execPdc (o : Operand) : Ensures (execPdc o s) (Effect s) :=
  effect_withAddress fun _ s => effect_next (.setX s _ _)

theorem effect_execPcd (o : Operand) : Ensures (execPcd o s) (Effect s) :=
  effect_accFromIndex s _ o

theorem effect_execPca (o : Operand) : Ensures (execPca o s) (Effect s) :=
  effect_accFromIndex s _ o

theorem effect_execSxa (o : Operand) : Ensures (execSxa o s) (Effect s) :=
  effect_updateIndexOperand s o _

theorem effect_execSxd (o : Operand) : Ensures (execSxd o s) (Effect s) :=
  effect_updateIndexOperand s o _

theorem effect_execSca (o : Operand) : Ensures (execSca o s) (Effect s) :=
  effect_updateIndexOperand s o _

theorem effect_execScd (o : Operand) : Ensures (execScd o s) (Effect s) :=
  effect_updateIndexOperand s o _

theorem effect_execLxa (o : Operand) : Ensures (execLxa o s) (Effect s) :=
  effect_withIndexOperand fun _ s => effect_next (.setX s _ _)

theorem effect_execLxd (o : Operand) : Ensures (execLxd o s) (Effect s) :=
  effect_withIndexOperand fun _ s => effect_next (.setX s _ _)

theorem effect_execLac (o : Operand) : Ensures (execLac o s) (Effect s) :=
  effect_withIndexOperand fun _ s => effect_next (.setX s _ _)

theorem effect_execLdc (o : Operand) : Ensures (execLdc o s) (Effect s) :=
  effect_withIndexOperand fun _ s => effect_next (.setX s _ _)

theorem effect_execAdxs (o : Operand) : Ensures (execAdxs o s) (Effect s) :=
  effect_withIndexOperand fun _ s => effect_next (.setX s _ _)

theorem effect_execAdxd (o : Operand) : Ensures (execAdxd o s) (Effect s) :=
  effect_withAddress fun _ _ => ensures_ite (fun _ => effect_next (.of_same rfl)) fun _ =>
    effect_withWord fun _ s => effect_next (.addToIndex s _ _)

theorem effect_execAdxi (o : Operand) : Ensures (execAdxi o s) (Effect s) :=
  effect_withAddress fun _ s => effect_next (.ite (.refl s) (.addToIndex s _ _))

theorem effect_execSbxs (o : Operand) : Ensures (execSbxs o s) (Effect s) :=
  effect_withIndexOperand fun _ s => effect_next (.setX s _ _)

theorem effect_execSbxd (o : Operand) : Ensures (execSbxd o s) (Effect s) :=
  effect_withAddress fun _ _ => ensures_ite (fun _ => effect_next (.of_same rfl)) fun _ =>
    effect_withWord fun _ s => effect_next (.subtractFromIndex s _ _)

theorem effect_execSbxi (o : Operand) : Ensures (execSbxi o s) (Effect s) :=
  effect_withAddress fun _ s => effect_next (.ite (.refl s) (.subtractFromIndex s _ _))

theorem effect_execPchx (o : Operand) : Ensures (execPchx o s) (Effect s) :=
  effect_withAddress fun _ s => effect_next (.setX s _ _)

theorem effect_execTsx (o : Operand) : Ensures (execTsx o s) (Effect s) :=
  effect_withAddress fun _ s => effect_transferTo _ (.setX s _ _)

theorem effect_execTxf (o : Operand) : Ensures (execTxf o s) (Effect s) :=
  effect_withAddress fun _ s => effect_transferIf _ _ (.setX s _ _)

theorem effect_execTxrh (o : Operand) : Ensures (execTxrh o s) (Effect s) :=
  effect_withAddress fun _ s => effect_transferIf _ _ (.refl s)

theorem effect_execTxnh (o : Operand) : Ensures (execTxnh o s) (Effect s) :=
  effect_withAddress fun _ s => effect_transferIf _ _ (.refl s)

theorem effect_execTxrl (o : Operand) : Ensures (execTxrl o s) (Effect s) :=
  effect_withAddress fun _ s => effect_transferIf _ _ (.refl s)

theorem effect_execTxnl (o : Operand) : Ensures (execTxnl o s) (Effect s) :=
  effect_withAddress fun _ s => effect_transferIf _ _ (.refl s)

theorem effect_execTxre (o : Operand) : Ensures (execTxre o s) (Effect s) :=
  effect_withAddress fun _ s => effect_transferIf _ _ (.refl s)

theorem effect_execTxne (o : Operand) : Ensures (execTxne o s) (Effect s) :=
  effect_withAddress fun _ s => effect_transferIf _ _ (.refl s)

theorem effect_execLxs (o : Operand) : Ensures (execLxs o s) (Effect s) :=
  effect_withIndexOperand fun _ s => effect_next (.setX s _ _)

theorem effect_execCxs (o : Operand) : Ensures (execCxs o s) (Effect s) :=
  effect_withIndexOperand fun _ s => effect_next (.compareIndex s _ _)

theorem effect_execCxd (o : Operand) : Ensures (execCxd o s) (Effect s) :=
  effect_withIndexOperand fun _ s => effect_next (.compareIndex s _ _)

theorem effect_execCxi (o : Operand) : Ensures (execCxi o s) (Effect s) :=
  effect_withAddress fun _ s => effect_next (.compareIndex s _ _)

theorem effect_execXlf (o : Operand) : Ensures (execXlf o s) (Effect s) :=
  effect_closeLoop s _ o

theorem effect_execXlb (o : Operand) : Ensures (execXlb o s) (Effect s) :=
  effect_closeLoop s _ o

theorem effect_execSmx (o : Operand) : Ensures (execSmx o s) (Effect s) :=
  effect_withAddress fun _ _ => ensures_ite (fun _ => effect_next (.of_same rfl)) fun _ =>
    effect_withUpdate fun _ => effect_withStores _ _ effect_done

theorem effect_execLmx (o : Operand) : Ensures (execLmx o s) (Effect s) :=
  effect_withAddress fun _ _ => ensures_ite (fun _ => effect_next (.of_same rfl)) fun _ =>
    effect_withWord fun _ _ => effect_withWords fun _ s =>
      effect_next ((Ordinary.setX s _ _).trans (.loadPairs _ _ _ _))

theorem effect_execOra (o : Operand) : Ensures (execOra o s) (Effect s) :=
  effect_withOperand fun _ _ => effect_next (.of_same rfl)

theorem effect_execOrs (o : Operand) : Ensures (execOrs o s) (Effect s) :=
  effect_updateOperand s o _

theorem effect_execAna (o : Operand) : Ensures (execAna o s) (Effect s) :=
  effect_withOperand fun _ _ => effect_next (.of_same rfl)

theorem effect_execAns (o : Operand) : Ensures (execAns o s) (Effect s) :=
  effect_updateOperand s o _

theorem effect_execEra (o : Operand) : Ensures (execEra o s) (Effect s) :=
  effect_withOperand fun _ _ => effect_next (.of_same rfl)

theorem effect_execErs (o : Operand) : Ensures (execErs o s) (Effect s) :=
  effect_updateOperand s o _

theorem effect_execCom (o : Operand) : Ensures (execCom o s) (Effect s) :=
  effect_changeAcc s _ o

theorem effect_execClm (o : Operand) : Ensures (execClm o s) (Effect s) :=
  effect_changeAcc s _ o

theorem effect_execChs (o : Operand) : Ensures (execChs o s) (Effect s) :=
  effect_changeAcc s _ o

theorem effect_execSsp (o : Operand) : Ensures (execSsp o s) (Effect s) :=
  effect_changeAcc s _ o

theorem effect_execSsm (o : Operand) : Ensures (execSsm o s) (Effect s) :=
  effect_changeAcc s _ o

theorem effect_execAdos (o : Operand) : Ensures (execAdos o s) (Effect s) :=
  effect_updateOperand s o _

theorem effect_execLdi (o : Operand) : Ensures (execLdi o s) (Effect s) :=
  effect_withOperand fun _ _ => effect_next (.of_same rfl)

theorem effect_execSti (o : Operand) : Ensures (execSti o s) (Effect s) :=
  effect_storeOperand s o _

theorem effect_execPai (o : Operand) : Ensures (execPai o s) (Effect s) :=
  effect_changeIndicators s _ o

theorem effect_execPia (o : Operand) : Ensures (execPia o s) (Effect s) :=
  effect_withAddress fun _ _ => effect_next (.of_same rfl)

theorem effect_execOai (o : Operand) : Ensures (execOai o s) (Effect s) :=
  effect_changeIndicators s _ o

theorem effect_execOsi (o : Operand) : Ensures (execOsi o s) (Effect s) :=
  effect_withOperand fun _ _ => effect_next (.of_same rfl)

theorem effect_execOis (o : Operand) : Ensures (execOis o s) (Effect s) :=
  effect_updateOperand s o _

theorem effect_execRil (o : Operand) : Ensures (execRil o s) (Effect s) :=
  effect_maskIndicators s _ o

theorem effect_execRir (o : Operand) : Ensures (execRir o s) (Effect s) :=
  effect_maskIndicators s _ o

theorem effect_execSil (o : Operand) : Ensures (execSil o s) (Effect s) :=
  effect_maskIndicators s _ o

theorem effect_execSir (o : Operand) : Ensures (execSir o s) (Effect s) :=
  effect_maskIndicators s _ o

theorem effect_execRia (o : Operand) : Ensures (execRia o s) (Effect s) :=
  effect_changeIndicators s _ o

theorem effect_execRis (o : Operand) : Ensures (execRis o s) (Effect s) :=
  effect_withOperand fun _ _ => effect_next (.of_same rfl)

theorem effect_execIia (o : Operand) : Ensures (execIia o s) (Effect s) :=
  effect_changeIndicators s _ o

theorem effect_execIis (o : Operand) : Ensures (execIis o s) (Effect s) :=
  effect_withOperand fun _ _ => effect_next (.of_same rfl)

theorem effect_execIil (o : Operand) : Ensures (execIil o s) (Effect s) :=
  effect_maskIndicators s _ o

theorem effect_execIir (o : Operand) : Ensures (execIir o s) (Effect s) :=
  effect_maskIndicators s _ o

theorem effect_execOft (o : Operand) : Ensures (execOft o s) (Effect s) :=
  effect_withOperand fun _ s => effect_next (.skipIf s _)

theorem effect_execOnt (o : Operand) : Ensures (execOnt o s) (Effect s) :=
  effect_withOperand fun _ s => effect_next (.skipIf s _)

theorem effect_execRft (o : Operand) : Ensures (execRft o s) (Effect s) :=
  effect_testIndicators s _ o

theorem effect_execRnt (o : Operand) : Ensures (execRnt o s) (Effect s) :=
  effect_testIndicators s _ o

theorem effect_execLft (o : Operand) : Ensures (execLft o s) (Effect s) :=
  effect_testIndicators s _ o

theorem effect_execLnt (o : Operand) : Ensures (execLnt o s) (Effect s) :=
  effect_testIndicators s _ o

theorem effect_execLaci (o : Operand) : Ensures (execLaci o s) (Effect s) :=
  effect_withOperand fun _ _ => effect_next (.of_same rfl)

theorem effect_execSaci (o : Operand) : Ensures (execSaci o s) (Effect s) :=
  effect_storeOperand s o _

theorem effect_execLasi (o : Operand) : Ensures (execLasi o s) (Effect s) :=
  effect_updateOperand s o _

theorem effect_execCasi (o : Operand) : Ensures (execCasi o s) (Effect s) :=
  effect_withOperand fun _ s => effect_next (.skipOn s _)

theorem effect_execFlt (o : Operand) : Ensures (execFlt o s) (Effect s) :=
  effect_withOperand fun _ _ => effect_next (.of_same rfl)

theorem effect_execFix (o : Operand) : Ensures (execFix o s) (Effect s) :=
  effect_withOperand fun _ s => ensures_ite
    (fun _ => effect_raise (u := { s with ac := Config.fixAc s.tick, mq := Config.fixMq s.tick }) _ (.of_same rfl) (show FixedLocation.r6 ≠ .r8 by decide))
    fun _ => effect_next (.of_same rfl)

theorem effect_execCdec (o : Operand) : Ensures (execCdec o s) (Effect s) :=
  effect_withAddress fun _ _ => ensures_refused

theorem effect_execCbin (o : Operand) : Ensures (execCbin o s) (Effect s) :=
  effect_withAddress fun _ _ => ensures_refused

theorem effect_execSqxl (o : Operand) : Ensures (execSqxl o s) (Effect s) :=
  effect_withAddress fun _ _ => effect_next (.thenSetX (.of_same rfl))

theorem effect_execSxar (o : Operand) : Ensures (execSxar o s) (Effect s) :=
  effect_withAddress fun _ _ => effect_next (.of_same rfl)

theorem effect_execSqxt (o : Operand) : Ensures (execSqxt o s) (Effect s) :=
  effect_withAddress fun _ _ => ensures_ite (fun _ => ensures_refused) fun _ =>
    effect_next (.thenSkipIf (.thenSetX (.thenSetX (.of_same rfl))))

theorem effect_execSxat (o : Operand) : Ensures (execSxat o s) (Effect s) :=
  effect_withAddress fun _ _ => ensures_ite (fun _ => ensures_refused) fun _ =>
    effect_next (.thenSkipIf (.thenSetX (.of_same rfl)))

theorem effect_execStc (o : Operand) : Ensures (execStc o s) (Effect s) :=
  effect_withOperand fun _ s => effect_withOneChannel _ fun _ =>
    ensures_ite (fun _ => effect_next (.handSpecial _ s)) fun _ => effect_startChannel s _ _

theorem effect_execCht (o : Operand) : Ensures (execCht o s) (Effect s) :=
  effect_withOperand fun _ _ => effect_withOneChannel _ fun _ => effect_between fun s =>
    effect_next (.thenHandSpecial (.trans (.storeFor s _ _ _ _ (s.inhibitFor_of_problem _)) (.skipIf _ _)))

theorem effect_execSch (o : Operand) : Ensures (execSch o s) (Effect s) :=
  effect_withOperand fun w _ => effect_withOneChannel _ fun ch => effect_between fun u =>
    effect_storePair u ch w _ _

theorem effect_execHch (o : Operand) : Ensures (execHch o s) (Effect s) :=
  effect_withOperand fun _ s => ensures_ite (fun _ => effect_raise _ (.refl s) (by decide)) fun _ =>
    effect_next (.thenHandSpecial (.forChannels Ordinary.requestHalt _ s))

theorem effect_execIct (o : Operand) : Ensures (execIct o s) (Effect s) :=
  effect_withAddress fun _ _ => effect_restricted fun w u => ensures_next.2 fun h => by
    rw [State.wf_of_mem (handSpecial_mem w _)]; exact h

theorem effect_execSbp (o : Operand) : Ensures (execSbp o s) (Effect s) :=
  effect_withAddress fun _ _ => ensures_refused

theorem effect_execEnb (o : Operand) : Ensures (execEnb o s) (Effect s) :=
  effect_withAddress fun _ _ => effect_restricted fun _ _ => ensures_next.2 fun h => by
    rwa [State.wf_of_mem ((handSpecial_mem _ _).trans (forChannels_mem (f := enableChannel _) (fun _ _ => rfl) _ _))]

theorem effect_execChSense (m : BitVec 4) (flags : CmdFlags) (y : Addr) : Ensures (execChSense m flags y s) (Effect s) :=
  effect_commanded s (commanded_controlUnitOperation _)

theorem effect_execChReadBackward (m : BitVec 4) (flags : CmdFlags) (y : Addr) : Ensures (execChReadBackward m flags y s) (Effect s) :=
  effect_commanded s (commanded_controlUnitOperation _)

theorem effect_execChWrite (m : BitVec 6) (flags : CmdFlags) (y : Addr) : Ensures (execChWrite m flags y s) (Effect s) :=
  effect_commanded s (commanded_controlUnitOperation _)

theorem effect_execChRead (m : BitVec 6) (flags : CmdFlags) (y : Addr) : Ensures (execChRead m flags y s) (Effect s) :=
  effect_commanded s (commanded_controlUnitOperation _)

theorem effect_execChControl (m : BitVec 6) (flags : CmdFlags) (y : Addr) : Ensures (execChControl m flags y s) (Effect s) :=
  effect_commanded s (commanded_controlUnitOperation _)

theorem effect_execChTch (flags : CmdFlags) (y : Addr) : Ensures (execChTch flags y s) (Effect s) :=
  effect_commanded s (commanded_execChTch _ _)

theorem effect_execChXec (flags : CmdFlags) (y : Addr) : Ensures (execChXec flags y s) (Effect s) :=
  effect_commanded s (commanded_execChXec _ _)

theorem effect_execDcwTcw (c : BitVec 15) (y : Addr) : Ensures (execDcwTcw c y s) (Effect s) :=
  effect_commanded s (commanded_loadControlWord _ _ _ _)

theorem effect_execDcwTcwInd (c : BitVec 15) (y : Addr) : Ensures (execDcwTcwInd c y s) (Effect s) :=
  effect_commanded s (commanded_loadIndirectControlWord _ _ _)

theorem effect_execDcwCcw (c : BitVec 15) (y : Addr) : Ensures (execDcwCcw c y s) (Effect s) :=
  effect_commanded s (commanded_loadControlWord _ _ _ _)

theorem effect_execDcwCcwn (c : BitVec 15) (y : Addr) : Ensures (execDcwCcwn c y s) (Effect s) :=
  effect_commanded s (commanded_loadControlWord _ _ _ _)

theorem effect_execDcwCcwInd (c : BitVec 15) (y : Addr) : Ensures (execDcwCcwInd c y s) (Effect s) :=
  effect_commanded s (commanded_loadIndirectControlWord _ _ _)

/-! ## Every instruction -/

/-- What every instruction can do, XEC's own meaning being given. -/
theorem effect_performWith {xec : Operand → State → Result} (hx : ∀ o u, Ensures (xec o u) (Effect u)) (i : Instr) :
    Ensures (performWith xec i s) (Effect s) :=
  match i with
  | .cla o => effect_execCla s o
  | .cal o => effect_execCal s o
  | .cls o => effect_execCls s o
  | .lla o => effect_execLla s o
  | .lra o => effect_execLra s o
  | .ldq o => effect_execLdq s o
  | .dla o => effect_execDla s o
  | .dlld o => effect_execDlld s o
  | .dldn o => effect_execDldn s o
  | .sto o => effect_execSto s o
  | .slw o => effect_execSlw s o
  | .stal o => effect_execStal s o
  | .star o => effect_execStar s o
  | .stan o => effect_execStan s o
  | .stq o => effect_execStq s o
  | .slq o => effect_execSlq s o
  | .dst o => effect_execDst s o
  | .dlsf o => effect_execDlsf s o
  | .dstn o => effect_execDstn s o
  | .stz o => effect_execStz s o
  | .stl o => effect_execStl s o
  | .xca o => effect_execXca s o
  | .xcl o => effect_execXcl s o
  | .enk o => effect_execEnk s o
  | .scpu o => effect_execScpu s o
  | .rcpu o => effect_execRcpu s o
  | .add o => effect_execAdd s o
  | .adm o => effect_execAdm s o
  | .acl o => effect_execAcl s o
  | .sub o => effect_execSub s o
  | .sbm o => effect_execSbm s o
  | .mpy o => effect_execMpy s o
  | .mpr o => effect_execMpr s o
  | .imp o => effect_execImp s o
  | .vlm o => effect_execVlm s o
  | .rnd o => effect_execRnd s o
  | .dvt o => effect_execDvt s o
  | .idv o => effect_execIdv s o
  | .vdt o => effect_execVdt s o
  | .fad o => effect_execFad s o
  | .fam o => effect_execFam s o
  | .ufa o => effect_execUfa s o
  | .uam o => effect_execUam s o
  | .fsb o => effect_execFsb s o
  | .fsm o => effect_execFsm s o
  | .ufs o => effect_execUfs s o
  | .usm o => effect_execUsm s o
  | .fmp o => effect_execFmp s o
  | .ufm o => effect_execUfm s o
  | .frn o => effect_execFrn s o
  | .fdt o => effect_execFdt s o
  | .fdh o => effect_execFdh s o
  | .frd o => effect_execFrd s o
  | .adxp o => effect_execAdxp s o
  | .dfad o => effect_execDfad s o
  | .dfam o => effect_execDfam s o
  | .dufa o => effect_execDufa s o
  | .duam o => effect_execDuam s o
  | .dfsb o => effect_execDfsb s o
  | .dfsm o => effect_execDfsm s o
  | .dufs o => effect_execDufs s o
  | .dusm o => effect_execDusm s o
  | .dfmp o => effect_execDfmp s o
  | .dufm o => effect_execDufm s o
  | .dfdt o => effect_execDfdt s o
  | .dfrd o => effect_execDfrd s o
  | .als o => effect_execAls s o
  | .ars o => effect_execArs s o
  | .lls o => effect_execLls s o
  | .lrs o => effect_execLrs s o
  | .lgl o => effect_execLgl s o
  | .lgr o => effect_execLgr s o
  | .rql o => effect_execRql s o
  | .nop o => effect_execNop s o
  | .hpr o => effect_execHpr s o
  | .htr o => effect_execHtr s o
  | .xec o => hx o s
  | .tra o => effect_execTra s o
  | .ttr o => effect_execTtr s o
  | .tze o => effect_execTze s o
  | .tnz o => effect_execTnz s o
  | .tpl o => effect_execTpl s o
  | .tmi o => effect_execTmi s o
  | .tzm o => effect_execTzm s o
  | .tzp o => effect_execTzp s o
  | .tgz o => effect_execTgz s o
  | .tlz o => effect_execTlz s o
  | .tov o => effect_execTov s o
  | .tno o => effect_execTno s o
  | .tqp o => effect_execTqp s o
  | .tlq o => effect_execTlq s o
  | .pse o => effect_execPse s o
  | .mse o => effect_execMse s o
  | .pbt o => effect_execPbt s o
  | .lbt o => effect_execLbt s o
  | .zet o => effect_execZet s o
  | .nzt o => effect_execNzt s o
  | .cas o => effect_execCas s o
  | .las o => effect_execLas s o
  | .tsl o => effect_execTsl s o
  | .smp o => effect_execSmp s o
  | .etm o => effect_execEtm s o
  | .ltm o => effect_execLtm s o
  | .ltmr o => effect_execLtmr s o
  | .stmr o => effect_execStmr s o
  | .lrtc o => effect_execLrtc s o
  | .srtc o => effect_execSrtc s o
  | .ctr o => effect_execCtr s o
  | .ptr o => effect_execPtr s o
  | .scar o => effect_execScar s o
  | .cmon o => effect_execCmon s o
  | .axi o => effect_execAxi s o
  | .axc o => effect_execAxc s o
  | .pax o => effect_execPax s o
  | .pac o => effect_execPac s o
  | .pxa o => effect_execPxa s o
  | .pxd o => effect_execPxd s o
  | .pdc o => effect_execPdc s o
  | .pcd o => effect_execPcd s o
  | .pca o => effect_execPca s o
  | .sxa o => effect_execSxa s o
  | .sxd o => effect_execSxd s o
  | .sca o => effect_execSca s o
  | .scd o => effect_execScd s o
  | .lxa o => effect_execLxa s o
  | .lxd o => effect_execLxd s o
  | .lac o => effect_execLac s o
  | .ldc o => effect_execLdc s o
  | .adxs o => effect_execAdxs s o
  | .adxd o => effect_execAdxd s o
  | .adxi o => effect_execAdxi s o
  | .sbxs o => effect_execSbxs s o
  | .sbxd o => effect_execSbxd s o
  | .sbxi o => effect_execSbxi s o
  | .pchx o => effect_execPchx s o
  | .tsx o => effect_execTsx s o
  | .txf o => effect_execTxf s o
  | .txrh o => effect_execTxrh s o
  | .txnh o => effect_execTxnh s o
  | .txrl o => effect_execTxrl s o
  | .txnl o => effect_execTxnl s o
  | .txre o => effect_execTxre s o
  | .txne o => effect_execTxne s o
  | .lxs o => effect_execLxs s o
  | .cxs o => effect_execCxs s o
  | .cxd o => effect_execCxd s o
  | .cxi o => effect_execCxi s o
  | .xlf o => effect_execXlf s o
  | .xlb o => effect_execXlb s o
  | .smx o => effect_execSmx s o
  | .lmx o => effect_execLmx s o
  | .ora o => effect_execOra s o
  | .ors o => effect_execOrs s o
  | .ana o => effect_execAna s o
  | .ans o => effect_execAns s o
  | .era o => effect_execEra s o
  | .ers o => effect_execErs s o
  | .com o => effect_execCom s o
  | .clm o => effect_execClm s o
  | .chs o => effect_execChs s o
  | .ssp o => effect_execSsp s o
  | .ssm o => effect_execSsm s o
  | .ados o => effect_execAdos s o
  | .ldi o => effect_execLdi s o
  | .sti o => effect_execSti s o
  | .pai o => effect_execPai s o
  | .pia o => effect_execPia s o
  | .oai o => effect_execOai s o
  | .osi o => effect_execOsi s o
  | .ois o => effect_execOis s o
  | .ril o => effect_execRil s o
  | .rir o => effect_execRir s o
  | .sil o => effect_execSil s o
  | .sir o => effect_execSir s o
  | .ria o => effect_execRia s o
  | .ris o => effect_execRis s o
  | .iia o => effect_execIia s o
  | .iis o => effect_execIis s o
  | .iil o => effect_execIil s o
  | .iir o => effect_execIir s o
  | .oft o => effect_execOft s o
  | .ont o => effect_execOnt s o
  | .rft o => effect_execRft s o
  | .rnt o => effect_execRnt s o
  | .lft o => effect_execLft s o
  | .lnt o => effect_execLnt s o
  | .laci o => effect_execLaci s o
  | .saci o => effect_execSaci s o
  | .lasi o => effect_execLasi s o
  | .casi o => effect_execCasi s o
  | .flt o => effect_execFlt s o
  | .fix o => effect_execFix s o
  | .cdec o => effect_execCdec s o
  | .cbin o => effect_execCbin s o
  | .sqxl o => effect_execSqxl s o
  | .sxar o => effect_execSxar s o
  | .sqxt o => effect_execSqxt s o
  | .sxat o => effect_execSxat s o
  | .stc o => effect_execStc s o
  | .cht o => effect_execCht s o
  | .sch o => effect_execSch s o
  | .hch o => effect_execHch s o
  | .ict o => effect_execIct s o
  | .sbp o => effect_execSbp s o
  | .enb o => effect_execEnb s o
  | .chSense m flags y => effect_execChSense s m flags y
  | .chReadBackward m flags y => effect_execChReadBackward s m flags y
  | .chWrite m flags y => effect_execChWrite s m flags y
  | .chRead m flags y => effect_execChRead s m flags y
  | .chControl m flags y => effect_execChControl s m flags y
  | .chTch flags y => effect_execChTch s flags y
  | .chXec flags y => effect_execChXec s flags y
  | .dcwTcw c y => effect_execDcwTcw s c y
  | .dcwTcwInd c y => effect_execDcwTcwInd s c y
  | .dcwCcw c y => effect_execDcwCcw s c y
  | .dcwCcwn c y => effect_execDcwCcwn s c y
  | .dcwCcwInd c y => effect_execDcwCcwInd s c y

theorem ensures_onDecoded {d : Except DecodeError Instr} {k : Instr → Result} {P : State → Prop}
    (h : ∀ i, Ensures (k i) P) : Ensures (onDecoded d k) P := by
  unfold onDecoded; split
  · exact h _
  · exact ensures_refused
  · exact ensures_refused

theorem effect_withDecoded {w : Word} {s : State} {k : Instr → State → Result}
    (h : ∀ i u, Ensures (k i u) (Effect u)) : Ensures (withDecoded w s k) (Effect s) :=
  ensures_ite (fun _ => effect_withAddress fun _ u => ensures_onDecoded fun i => h i u) fun _ =>
    ensures_onDecoded fun i => h i s

theorem effect_runXec (n : Nat) (o : Operand) : Ensures (runXec n o s) (Effect s) := by
  induction n generalizing o s with
  | zero => exact ensures_fault
  | succ n ih =>
    exact effect_withOperand fun _ _ => effect_withDecoded fun i u =>
      effect_performWith u (fun o v => ih v o) i

/-- The table of `exec` is the table over which XEC is defined. -/
theorem exec_eq_performWith (i : Instr) : exec i s = performWith execXec i s := by
  cases i <;> rfl

/-- What every instruction can do. -/
theorem exec_effect (i : Instr) : Ensures (exec i s) (Effect s) := by
  rw [exec_eq_performWith]
  exact effect_performWith s (fun o u => effect_runXec u _ o) i

end Sys2Proof.Machine
end

