-- ==== Sys2Proof/Laws/PerInstr.lean ====
section
/-! SUPPORT. The family `EncodedOperation`: what the word of an instruction shows of its kind before the rest of it is
decoded. A processor instruction's word asks for its effective address exactly when the instruction belongs to a
370 group (R111, R121); a channel word has positions S,1,2 all ones exactly when it is a command (R451, R458). -/

namespace Sys2Proof.Laws.EncodedOperation

open Sys2Proof Sys2Proof.Machine

/-- The instruction is a channel command, not a data control word (R451). -/
def isChannelCommand (i : Instr) : Bool :=
  match i with
  | .chSense .. | .chReadBackward .. | .chWrite .. | .chRead .. | .chControl .. | .chTch .. | .chXec .. => true
  | _ => false

/-- What the word of `i` shows of its kind. -/
def Statement (i : Instr) : Prop :=
  (i.isCpu = true → needsSelector (encode i) = i.selectors.isSome) ∧
    (i.isCpu = false → isCommand (encode i) = isChannelCommand i)

theorem cpu_word {op : BitVec 9} {o : Operand} {b : Bool} (h : (selectorTable op).isSome = b) :
    needsSelector (assemble op o) = b := by
  simpa [needsSelector] using h

theorem command_word {opn : BitVec 12} {f : CmdFlags} {y : Addr} (h : opn.extractLsb' 9 3 = 7) :
    isCommand (assembleCommand opn f y) = true := by
  rw [isCommand, beq_iff_eq, ← h]
  ext i hi
  simp only [assembleCommand, BitVec.getElem_extractLsb', BitVec.getLsbD_cast, BitVec.getLsbD_append]
  split_ifs
  · omega
  · omega
  · congr 1; omega

theorem modified_word {k n : Nat} {m : BitVec k} {t : BitVec n} (h : 4 + k + n = 12) :
    ((((0b1110 : BitVec 4) ++ m ++ t).cast h).extractLsb' 9 3 : BitVec 3) = 7 := by
  ext i hi
  simp only [BitVec.getElem_extractLsb', BitVec.getLsbD_cast, BitVec.getLsbD_append]
  rw [if_neg (by omega), if_neg (by omega), show 9 + i - n - k = 1 + i by omega]
  clear h
  revert i
  decide

theorem control_word {opn : BitVec 3} {c : BitVec 15} {y : Addr} (h : opn ≠ 7) :
    isCommand (assembleControlWord opn c y) = false := by
  have e : (assembleControlWord opn c y).extractLsb' 33 3 = opn := by
    ext i hi
    simp only [assembleControlWord, BitVec.getElem_extractLsb', BitVec.getLsbD_cast, BitVec.getLsbD_append]
    split_ifs <;> first | omega | (rw [← BitVec.getLsbD_eq_getElem]; congr 1; omega)
  rw [isCommand, e]
  simpa using h

theorem of_cpu {i : Instr} (hc : i.isCpu = true) (h : needsSelector (encode i) = i.selectors.isSome) :
    Statement i := ⟨fun _ => h, fun hf => (by rw [hc] at hf; cases hf)⟩

theorem of_channel {i : Instr} (hc : i.isCpu = false) (h : isCommand (encode i) = isChannelCommand i) :
    Statement i := ⟨fun hf => (by rw [hc] at hf; cases hf), fun _ => h⟩

theorem cla (o : Operand) : Statement (.cla o) := of_cpu rfl (cpu_word rfl)
theorem cal (o : Operand) : Statement (.cal o) := of_cpu rfl (cpu_word rfl)
theorem cls (o : Operand) : Statement (.cls o) := of_cpu rfl (cpu_word rfl)
theorem lla (o : Operand) : Statement (.lla o) := of_cpu rfl (cpu_word rfl)
theorem lra (o : Operand) : Statement (.lra o) := of_cpu rfl (cpu_word rfl)
theorem ldq (o : Operand) : Statement (.ldq o) := of_cpu rfl (cpu_word rfl)
theorem dla (o : Operand) : Statement (.dla o) := of_cpu rfl (cpu_word rfl)
theorem dlld (o : Operand) : Statement (.dlld o) := of_cpu rfl (cpu_word rfl)
theorem dldn (o : Operand) : Statement (.dldn o) := of_cpu rfl (cpu_word rfl)
theorem sto (o : Operand) : Statement (.sto o) := of_cpu rfl (cpu_word rfl)
theorem slw (o : Operand) : Statement (.slw o) := of_cpu rfl (cpu_word rfl)
theorem stal (o : Operand) : Statement (.stal o) := of_cpu rfl (cpu_word rfl)
theorem star (o : Operand) : Statement (.star o) := of_cpu rfl (cpu_word rfl)
theorem stan (o : Operand) : Statement (.stan o) := of_cpu rfl (cpu_word rfl)
theorem stq (o : Operand) : Statement (.stq o) := of_cpu rfl (cpu_word rfl)
theorem slq (o : Operand) : Statement (.slq o) := of_cpu rfl (cpu_word rfl)
theorem dst (o : Operand) : Statement (.dst o) := of_cpu rfl (cpu_word rfl)
theorem dlsf (o : Operand) : Statement (.dlsf o) := of_cpu rfl (cpu_word rfl)
theorem dstn (o : Operand) : Statement (.dstn o) := of_cpu rfl (cpu_word rfl)
theorem stz (o : Operand) : Statement (.stz o) := of_cpu rfl (cpu_word rfl)
theorem stl (o : Operand) : Statement (.stl o) := of_cpu rfl (cpu_word rfl)
theorem xca (o : Operand) : Statement (.xca o) := of_cpu rfl (cpu_word rfl)
theorem xcl (o : Operand) : Statement (.xcl o) := of_cpu rfl (cpu_word rfl)
theorem enk (o : Operand) : Statement (.enk o) := of_cpu rfl (cpu_word rfl)
theorem scpu (o : Operand) : Statement (.scpu o) := of_cpu rfl (cpu_word rfl)
theorem rcpu (o : Operand) : Statement (.rcpu o) := of_cpu rfl (cpu_word rfl)
theorem add (o : Operand) : Statement (.add o) := of_cpu rfl (cpu_word rfl)
theorem adm (o : Operand) : Statement (.adm o) := of_cpu rfl (cpu_word rfl)
theorem acl (o : Operand) : Statement (.acl o) := of_cpu rfl (cpu_word rfl)
theorem sub (o : Operand) : Statement (.sub o) := of_cpu rfl (cpu_word rfl)
theorem sbm (o : Operand) : Statement (.sbm o) := of_cpu rfl (cpu_word rfl)
theorem mpy (o : Operand) : Statement (.mpy o) := of_cpu rfl (cpu_word rfl)
theorem mpr (o : Operand) : Statement (.mpr o) := of_cpu rfl (cpu_word rfl)
theorem imp (o : Operand) : Statement (.imp o) := of_cpu rfl (cpu_word rfl)
theorem vlm (o : Operand) : Statement (.vlm o) := of_cpu rfl (cpu_word rfl)
theorem rnd (o : Operand) : Statement (.rnd o) := of_cpu rfl (cpu_word rfl)
theorem dvt (o : Operand) : Statement (.dvt o) := of_cpu rfl (cpu_word rfl)
theorem idv (o : Operand) : Statement (.idv o) := of_cpu rfl (cpu_word rfl)
theorem vdt (o : Operand) : Statement (.vdt o) := of_cpu rfl (cpu_word rfl)
theorem fad (o : Operand) : Statement (.fad o) := of_cpu rfl (cpu_word rfl)
theorem fam (o : Operand) : Statement (.fam o) := of_cpu rfl (cpu_word rfl)
theorem ufa (o : Operand) : Statement (.ufa o) := of_cpu rfl (cpu_word rfl)
theorem uam (o : Operand) : Statement (.uam o) := of_cpu rfl (cpu_word rfl)
theorem fsb (o : Operand) : Statement (.fsb o) := of_cpu rfl (cpu_word rfl)
theorem fsm (o : Operand) : Statement (.fsm o) := of_cpu rfl (cpu_word rfl)
theorem ufs (o : Operand) : Statement (.ufs o) := of_cpu rfl (cpu_word rfl)
theorem usm (o : Operand) : Statement (.usm o) := of_cpu rfl (cpu_word rfl)
theorem fmp (o : Operand) : Statement (.fmp o) := of_cpu rfl (cpu_word rfl)
theorem ufm (o : Operand) : Statement (.ufm o) := of_cpu rfl (cpu_word rfl)
theorem frn (o : Operand) : Statement (.frn o) := of_cpu rfl (cpu_word rfl)
theorem fdt (o : Operand) : Statement (.fdt o) := of_cpu rfl (cpu_word rfl)
theorem fdh (o : Operand) : Statement (.fdh o) := of_cpu rfl (cpu_word rfl)
theorem frd (o : Operand) : Statement (.frd o) := of_cpu rfl (cpu_word rfl)
theorem adxp (o : Operand) : Statement (.adxp o) := of_cpu rfl (cpu_word rfl)
theorem dfad (o : Operand) : Statement (.dfad o) := of_cpu rfl (cpu_word rfl)
theorem dfam (o : Operand) : Statement (.dfam o) := of_cpu rfl (cpu_word rfl)
theorem dufa (o : Operand) : Statement (.dufa o) := of_cpu rfl (cpu_word rfl)
theorem duam (o : Operand) : Statement (.duam o) := of_cpu rfl (cpu_word rfl)
theorem dfsb (o : Operand) : Statement (.dfsb o) := of_cpu rfl (cpu_word rfl)
theorem dfsm (o : Operand) : Statement (.dfsm o) := of_cpu rfl (cpu_word rfl)
theorem dufs (o : Operand) : Statement (.dufs o) := of_cpu rfl (cpu_word rfl)
theorem dusm (o : Operand) : Statement (.dusm o) := of_cpu rfl (cpu_word rfl)
theorem dfmp (o : Operand) : Statement (.dfmp o) := of_cpu rfl (cpu_word rfl)
theorem dufm (o : Operand) : Statement (.dufm o) := of_cpu rfl (cpu_word rfl)
theorem dfdt (o : Operand) : Statement (.dfdt o) := of_cpu rfl (cpu_word rfl)
theorem dfrd (o : Operand) : Statement (.dfrd o) := of_cpu rfl (cpu_word rfl)
theorem als (o : Operand) : Statement (.als o) := of_cpu rfl (cpu_word rfl)
theorem ars (o : Operand) : Statement (.ars o) := of_cpu rfl (cpu_word rfl)
theorem lls (o : Operand) : Statement (.lls o) := of_cpu rfl (cpu_word rfl)
theorem lrs (o : Operand) : Statement (.lrs o) := of_cpu rfl (cpu_word rfl)
theorem lgl (o : Operand) : Statement (.lgl o) := of_cpu rfl (cpu_word rfl)
theorem lgr (o : Operand) : Statement (.lgr o) := of_cpu rfl (cpu_word rfl)
theorem rql (o : Operand) : Statement (.rql o) := of_cpu rfl (cpu_word rfl)
theorem nop (o : Operand) : Statement (.nop o) := of_cpu rfl (cpu_word rfl)
theorem hpr (o : Operand) : Statement (.hpr o) := of_cpu rfl (cpu_word rfl)
theorem htr (o : Operand) : Statement (.htr o) := of_cpu rfl (cpu_word rfl)
theorem xec (o : Operand) : Statement (.xec o) := of_cpu rfl (cpu_word rfl)
theorem tra (o : Operand) : Statement (.tra o) := of_cpu rfl (cpu_word rfl)
theorem ttr (o : Operand) : Statement (.ttr o) := of_cpu rfl (cpu_word rfl)
theorem tze (o : Operand) : Statement (.tze o) := of_cpu rfl (cpu_word rfl)
theorem tnz (o : Operand) : Statement (.tnz o) := of_cpu rfl (cpu_word rfl)
theorem tpl (o : Operand) : Statement (.tpl o) := of_cpu rfl (cpu_word rfl)
theorem tmi (o : Operand) : Statement (.tmi o) := of_cpu rfl (cpu_word rfl)
theorem tzm (o : Operand) : Statement (.tzm o) := of_cpu rfl (cpu_word rfl)
theorem tzp (o : Operand) : Statement (.tzp o) := of_cpu rfl (cpu_word rfl)
theorem tgz (o : Operand) : Statement (.tgz o) := of_cpu rfl (cpu_word rfl)
theorem tlz (o : Operand) : Statement (.tlz o) := of_cpu rfl (cpu_word rfl)
theorem tov (o : Operand) : Statement (.tov o) := of_cpu rfl (cpu_word rfl)
theorem tno (o : Operand) : Statement (.tno o) := of_cpu rfl (cpu_word rfl)
theorem tqp (o : Operand) : Statement (.tqp o) := of_cpu rfl (cpu_word rfl)
theorem tlq (o : Operand) : Statement (.tlq o) := of_cpu rfl (cpu_word rfl)
theorem pse (o : Operand) : Statement (.pse o) := of_cpu rfl (cpu_word rfl)
theorem mse (o : Operand) : Statement (.mse o) := of_cpu rfl (cpu_word rfl)
theorem pbt (o : Operand) : Statement (.pbt o) := of_cpu rfl (cpu_word rfl)
theorem lbt (o : Operand) : Statement (.lbt o) := of_cpu rfl (cpu_word rfl)
theorem zet (o : Operand) : Statement (.zet o) := of_cpu rfl (cpu_word rfl)
theorem nzt (o : Operand) : Statement (.nzt o) := of_cpu rfl (cpu_word rfl)
theorem cas (o : Operand) : Statement (.cas o) := of_cpu rfl (cpu_word rfl)
theorem las (o : Operand) : Statement (.las o) := of_cpu rfl (cpu_word rfl)
theorem tsl (o : Operand) : Statement (.tsl o) := of_cpu rfl (cpu_word rfl)
theorem smp (o : Operand) : Statement (.smp o) := of_cpu rfl (cpu_word rfl)
theorem etm (o : Operand) : Statement (.etm o) := of_cpu rfl (cpu_word rfl)
theorem ltm (o : Operand) : Statement (.ltm o) := of_cpu rfl (cpu_word rfl)
theorem ltmr (o : Operand) : Statement (.ltmr o) := of_cpu rfl (cpu_word rfl)
theorem stmr (o : Operand) : Statement (.stmr o) := of_cpu rfl (cpu_word rfl)
theorem lrtc (o : Operand) : Statement (.lrtc o) := of_cpu rfl (cpu_word rfl)
theorem srtc (o : Operand) : Statement (.srtc o) := of_cpu rfl (cpu_word rfl)
theorem ctr (o : Operand) : Statement (.ctr o) := of_cpu rfl (cpu_word rfl)
theorem ptr (o : Operand) : Statement (.ptr o) := of_cpu rfl (cpu_word rfl)
theorem scar (o : Operand) : Statement (.scar o) := of_cpu rfl (cpu_word rfl)
theorem cmon (o : Operand) : Statement (.cmon o) := of_cpu rfl (cpu_word rfl)
theorem axi (o : Operand) : Statement (.axi o) := of_cpu rfl (cpu_word rfl)
theorem axc (o : Operand) : Statement (.axc o) := of_cpu rfl (cpu_word rfl)
theorem pax (o : Operand) : Statement (.pax o) := of_cpu rfl (cpu_word rfl)
theorem pac (o : Operand) : Statement (.pac o) := of_cpu rfl (cpu_word rfl)
theorem pxa (o : Operand) : Statement (.pxa o) := of_cpu rfl (cpu_word rfl)
theorem pxd (o : Operand) : Statement (.pxd o) := of_cpu rfl (cpu_word rfl)
theorem pdc (o : Operand) : Statement (.pdc o) := of_cpu rfl (cpu_word rfl)
theorem pcd (o : Operand) : Statement (.pcd o) := of_cpu rfl (cpu_word rfl)
theorem pca (o : Operand) : Statement (.pca o) := of_cpu rfl (cpu_word rfl)
theorem sxa (o : Operand) : Statement (.sxa o) := of_cpu rfl (cpu_word rfl)
theorem sxd (o : Operand) : Statement (.sxd o) := of_cpu rfl (cpu_word rfl)
theorem sca (o : Operand) : Statement (.sca o) := of_cpu rfl (cpu_word rfl)
theorem scd (o : Operand) : Statement (.scd o) := of_cpu rfl (cpu_word rfl)
theorem lxa (o : Operand) : Statement (.lxa o) := of_cpu rfl (cpu_word rfl)
theorem lxd (o : Operand) : Statement (.lxd o) := of_cpu rfl (cpu_word rfl)
theorem lac (o : Operand) : Statement (.lac o) := of_cpu rfl (cpu_word rfl)
theorem ldc (o : Operand) : Statement (.ldc o) := of_cpu rfl (cpu_word rfl)
theorem adxs (o : Operand) : Statement (.adxs o) := of_cpu rfl (cpu_word rfl)
theorem adxd (o : Operand) : Statement (.adxd o) := of_cpu rfl (cpu_word rfl)
theorem adxi (o : Operand) : Statement (.adxi o) := of_cpu rfl (cpu_word rfl)
theorem sbxs (o : Operand) : Statement (.sbxs o) := of_cpu rfl (cpu_word rfl)
theorem sbxd (o : Operand) : Statement (.sbxd o) := of_cpu rfl (cpu_word rfl)
theorem sbxi (o : Operand) : Statement (.sbxi o) := of_cpu rfl (cpu_word rfl)
theorem pchx (o : Operand) : Statement (.pchx o) := of_cpu rfl (cpu_word rfl)
theorem tsx (o : Operand) : Statement (.tsx o) := of_cpu rfl (cpu_word rfl)
theorem txf (o : Operand) : Statement (.txf o) := of_cpu rfl (cpu_word rfl)
theorem txrh (o : Operand) : Statement (.txrh o) := of_cpu rfl (cpu_word rfl)
theorem txnh (o : Operand) : Statement (.txnh o) := of_cpu rfl (cpu_word rfl)
theorem txrl (o : Operand) : Statement (.txrl o) := of_cpu rfl (cpu_word rfl)
theorem txnl (o : Operand) : Statement (.txnl o) := of_cpu rfl (cpu_word rfl)
theorem txre (o : Operand) : Statement (.txre o) := of_cpu rfl (cpu_word rfl)
theorem txne (o : Operand) : Statement (.txne o) := of_cpu rfl (cpu_word rfl)
theorem lxs (o : Operand) : Statement (.lxs o) := of_cpu rfl (cpu_word rfl)
theorem cxs (o : Operand) : Statement (.cxs o) := of_cpu rfl (cpu_word rfl)
theorem cxd (o : Operand) : Statement (.cxd o) := of_cpu rfl (cpu_word rfl)
theorem cxi (o : Operand) : Statement (.cxi o) := of_cpu rfl (cpu_word rfl)
theorem xlf (o : Operand) : Statement (.xlf o) := of_cpu rfl (cpu_word rfl)
theorem xlb (o : Operand) : Statement (.xlb o) := of_cpu rfl (cpu_word rfl)
theorem smx (o : Operand) : Statement (.smx o) := of_cpu rfl (cpu_word rfl)
theorem lmx (o : Operand) : Statement (.lmx o) := of_cpu rfl (cpu_word rfl)
theorem ora (o : Operand) : Statement (.ora o) := of_cpu rfl (cpu_word rfl)
theorem ors (o : Operand) : Statement (.ors o) := of_cpu rfl (cpu_word rfl)
theorem ana (o : Operand) : Statement (.ana o) := of_cpu rfl (cpu_word rfl)
theorem ans (o : Operand) : Statement (.ans o) := of_cpu rfl (cpu_word rfl)
theorem era (o : Operand) : Statement (.era o) := of_cpu rfl (cpu_word rfl)
theorem ers (o : Operand) : Statement (.ers o) := of_cpu rfl (cpu_word rfl)
theorem com (o : Operand) : Statement (.com o) := of_cpu rfl (cpu_word rfl)
theorem clm (o : Operand) : Statement (.clm o) := of_cpu rfl (cpu_word rfl)
theorem chs (o : Operand) : Statement (.chs o) := of_cpu rfl (cpu_word rfl)
theorem ssp (o : Operand) : Statement (.ssp o) := of_cpu rfl (cpu_word rfl)
theorem ssm (o : Operand) : Statement (.ssm o) := of_cpu rfl (cpu_word rfl)
theorem ados (o : Operand) : Statement (.ados o) := of_cpu rfl (cpu_word rfl)
theorem ldi (o : Operand) : Statement (.ldi o) := of_cpu rfl (cpu_word rfl)
theorem sti (o : Operand) : Statement (.sti o) := of_cpu rfl (cpu_word rfl)
theorem pai (o : Operand) : Statement (.pai o) := of_cpu rfl (cpu_word rfl)
theorem pia (o : Operand) : Statement (.pia o) := of_cpu rfl (cpu_word rfl)
theorem oai (o : Operand) : Statement (.oai o) := of_cpu rfl (cpu_word rfl)
theorem osi (o : Operand) : Statement (.osi o) := of_cpu rfl (cpu_word rfl)
theorem ois (o : Operand) : Statement (.ois o) := of_cpu rfl (cpu_word rfl)
theorem ril (o : Operand) : Statement (.ril o) := of_cpu rfl (cpu_word rfl)
theorem rir (o : Operand) : Statement (.rir o) := of_cpu rfl (cpu_word rfl)
theorem sil (o : Operand) : Statement (.sil o) := of_cpu rfl (cpu_word rfl)
theorem sir (o : Operand) : Statement (.sir o) := of_cpu rfl (cpu_word rfl)
theorem ria (o : Operand) : Statement (.ria o) := of_cpu rfl (cpu_word rfl)
theorem ris (o : Operand) : Statement (.ris o) := of_cpu rfl (cpu_word rfl)
theorem iia (o : Operand) : Statement (.iia o) := of_cpu rfl (cpu_word rfl)
theorem iis (o : Operand) : Statement (.iis o) := of_cpu rfl (cpu_word rfl)
theorem iil (o : Operand) : Statement (.iil o) := of_cpu rfl (cpu_word rfl)
theorem iir (o : Operand) : Statement (.iir o) := of_cpu rfl (cpu_word rfl)
theorem oft (o : Operand) : Statement (.oft o) := of_cpu rfl (cpu_word rfl)
theorem ont (o : Operand) : Statement (.ont o) := of_cpu rfl (cpu_word rfl)
theorem rft (o : Operand) : Statement (.rft o) := of_cpu rfl (cpu_word rfl)
theorem rnt (o : Operand) : Statement (.rnt o) := of_cpu rfl (cpu_word rfl)
theorem lft (o : Operand) : Statement (.lft o) := of_cpu rfl (cpu_word rfl)
theorem lnt (o : Operand) : Statement (.lnt o) := of_cpu rfl (cpu_word rfl)
theorem laci (o : Operand) : Statement (.laci o) := of_cpu rfl (cpu_word rfl)
theorem saci (o : Operand) : Statement (.saci o) := of_cpu rfl (cpu_word rfl)
theorem lasi (o : Operand) : Statement (.lasi o) := of_cpu rfl (cpu_word rfl)
theorem casi (o : Operand) : Statement (.casi o) := of_cpu rfl (cpu_word rfl)
theorem flt (o : Operand) : Statement (.flt o) := of_cpu rfl (cpu_word rfl)
theorem fix (o : Operand) : Statement (.fix o) := of_cpu rfl (cpu_word rfl)
theorem cdec (o : Operand) : Statement (.cdec o) := of_cpu rfl (cpu_word rfl)
theorem cbin (o : Operand) : Statement (.cbin o) := of_cpu rfl (cpu_word rfl)
theorem sqxl (o : Operand) : Statement (.sqxl o) := of_cpu rfl (cpu_word rfl)
theorem sxar (o : Operand) : Statement (.sxar o) := of_cpu rfl (cpu_word rfl)
theorem sqxt (o : Operand) : Statement (.sqxt o) := of_cpu rfl (cpu_word rfl)
theorem sxat (o : Operand) : Statement (.sxat o) := of_cpu rfl (cpu_word rfl)
theorem stc (o : Operand) : Statement (.stc o) := of_cpu rfl (cpu_word rfl)
theorem cht (o : Operand) : Statement (.cht o) := of_cpu rfl (cpu_word rfl)
theorem sch (o : Operand) : Statement (.sch o) := of_cpu rfl (cpu_word rfl)
theorem hch (o : Operand) : Statement (.hch o) := of_cpu rfl (cpu_word rfl)
theorem ict (o : Operand) : Statement (.ict o) := of_cpu rfl (cpu_word rfl)
theorem sbp (o : Operand) : Statement (.sbp o) := of_cpu rfl (cpu_word rfl)
theorem enb (o : Operand) : Statement (.enb o) := of_cpu rfl (cpu_word rfl)
theorem chSense (m : BitVec 4) (f : CmdFlags) (y : Addr) : Statement (.chSense m f y) := of_channel rfl (command_word (modified_word rfl))
theorem chReadBackward (m : BitVec 4) (f : CmdFlags) (y : Addr) : Statement (.chReadBackward m f y) := of_channel rfl (command_word (modified_word rfl))
theorem chWrite (m : BitVec 6) (f : CmdFlags) (y : Addr) : Statement (.chWrite m f y) := of_channel rfl (command_word (modified_word rfl))
theorem chRead (m : BitVec 6) (f : CmdFlags) (y : Addr) : Statement (.chRead m f y) := of_channel rfl (command_word (modified_word rfl))
theorem chControl (m : BitVec 6) (f : CmdFlags) (y : Addr) : Statement (.chControl m f y) := of_channel rfl (command_word (modified_word rfl))
theorem chTch (f : CmdFlags) (y : Addr) : Statement (.chTch f y) := of_channel rfl (command_word (by decide))
theorem chXec (f : CmdFlags) (y : Addr) : Statement (.chXec f y) := of_channel rfl (command_word (by decide))
theorem dcwTcw (c : BitVec 15) (y : Addr) : Statement (.dcwTcw c y) := of_channel rfl (control_word (by decide))
theorem dcwTcwInd (c : BitVec 15) (y : Addr) : Statement (.dcwTcwInd c y) := of_channel rfl (control_word (by decide))
theorem dcwCcw (c : BitVec 15) (y : Addr) : Statement (.dcwCcw c y) := of_channel rfl (control_word (by decide))
theorem dcwCcwn (c : BitVec 15) (y : Addr) : Statement (.dcwCcwn c y) := of_channel rfl (control_word (by decide))
theorem dcwCcwInd (c : BitVec 15) (y : Addr) : Statement (.dcwCcwInd c y) := of_channel rfl (control_word (by decide))

end Sys2Proof.Laws.EncodedOperation
end

