-- ==== Sys2Proof/Laws/Stored.lean ====
section
/-! SUPPORT. Stored and Holds: one lemma per way of storing words, one per way of reading them, and what a block of
index registers holds after it is loaded. -/

namespace Sys2Proof.Machine

variable {s t : State} {a : Addr} {w : Word} {l : List Word}

theorem stored_poke (s : State) (a : Addr) (w : Word) : Stored s (s.poke a w) a [w] := by
  constructor
  · intro k hk
    obtain rfl : k = 0 := by simpa using hk
    simp
  · intro b hb
    exact State.load_poke_of_ne _ _ (by simpa using hb 0 (by simp))

theorem onlyStorage_poke (s : State) (a : Addr) (w : Word) : OnlyStorage s (s.poke a w) := rfl

theorem OnlyStorage.trans {u : State} (h : OnlyStorage s t) (g : OnlyStorage t u) : OnlyStorage s u := by
  unfold OnlyStorage at *
  rw [g, h]

theorem addr_succ (a : Addr) (k : Nat) : a + BitVec.ofNat 18 (k + 1) = a + 1 + BitVec.ofNat 18 k := by
  apply BitVec.eq_of_toNat_eq
  simp [BitVec.toNat_add]
  omega

theorem stored_cons (hl : l.length < 2 ^ 18) (h : Stored (s.poke a w) t (a + 1) l) : Stored s t a (w :: l) := by
  obtain ⟨h1, h2⟩ := h
  constructor
  · intro k hk
    cases k with
    | zero =>
      simp only [BitVec.add_zero, List.getElem?_cons_zero]
      rw [h2, State.load_poke_same]
      intro k hk e
      have := congrArg BitVec.toNat e
      simp [BitVec.toNat_add] at this
      omega
    | succ k => rw [addr_succ, h1 k (by simpa using hk), List.getElem?_cons_succ]
  · intro b hb
    rw [h2 b, State.load_poke_of_ne]
    · simpa using hb 0 (by simp)
    · intro k hk
      rw [← addr_succ]
      exact hb (k + 1) (by simpa using hk)

/-- The words `l` can be stored from `a` on: what stands there then, and the bounds the same. -/
theorem withStores_append (l m : List Word) (s : State) (a : Addr) (hq : s.inside = [])
    (hl : l.length ≤ 2 ^ 18) (h : ∀ k, k < l.length → s.violates (a + BitVec.ofNat 18 k) = false)
    (k : State → Result) :
    ∃ t, withStores a (l ++ m) s k = withStores (a + BitVec.ofNat 18 l.length) m t k ∧ OnlyStorage s t ∧
      Stored s t a l := by
  induction l generalizing s a with
  | nil => exact ⟨s, by simp, rfl, by intro k hk; simp at hk, fun _ _ => rfl⟩
  | cons w l ih =>
    have h0 : s.violates a = false := by simpa using h 0 (by simp)
    simp only [List.length_cons] at hl
    obtain ⟨t, ht, ho, hs⟩ := ih (s.poke a w) (a + 1) hq (by omega) (by
      intro k hk
      rw [State.violates_poke, ← addr_succ]
      exact h (k + 1) (by simpa using hk))
    refine ⟨t, ?_, (onlyStorage_poke s a w).trans ho, stored_cons (by omega) hs⟩
    rw [List.cons_append, withStores, withStore_of_allowed hq h0, ht, List.length_cons, addr_succ]

/-- Stores none of which violates: the words stand from `a` on, and nothing else changes. -/
theorem withStores_of_allowed (l : List Word) (s : State) (a : Addr) (hq : s.inside = []) (hl : l.length ≤ 2 ^ 18)
    (h : ∀ k, k < l.length → s.violates (a + BitVec.ofNat 18 k) = false) (k : State → Result) :
    ∃ t, withStores a l s k = k t ∧ OnlyStorage s t ∧ Stored s t a l := by
  obtain ⟨t, ht, h'⟩ := withStores_append l [] s a hq hl h k
  exact ⟨t, by simpa [withStores] using ht, h'⟩

theorem OnlyStorage.inside (h : OnlyStorage s t) : t.inside = s.inside := by rw [h]

theorem OnlyStorage.violates (h : OnlyStorage s t) (b : Addr) : t.violates b = s.violates b := by rw [h]; rfl

/-- Stores of which a later one violates: the words before it stand from `a` on, and the trap is taken (R85). -/
theorem withStores_of_violation (l : List Word) (w : Word) (m : List Word) (s : State) (a : Addr) (hq : s.inside = [])
    (hl : l.length ≤ 2 ^ 18) (h : ∀ k, k < l.length → s.violates (a + BitVec.ofNat 18 k) = false)
    (hv : s.violates (a + BitVec.ofNat 18 l.length) = true) (k : State → Result) :
    ∃ t, withStores a (l ++ w :: m) s k = .next (takeTrap .protectViolation t) ∧ OnlyStorage s t ∧
      Stored s t a l := by
  obtain ⟨t, ht, ho, hs⟩ := withStores_append l (w :: m) s a hq hl h k
  refine ⟨t, ?_, ho, hs⟩
  rw [ht, withStores, withStore_of_violation (ho.inside.trans hq) ((ho.violates _).trans hv)]

theorem holds_cons : Holds s a (w :: l) ↔ s.load a = some w ∧ Holds s (a + 1) l := by
  constructor
  · intro h
    refine ⟨by simpa using h 0 (by simp), fun k hk => ?_⟩
    rw [← addr_succ, h (k + 1) (by simpa using hk), List.getElem?_cons_succ]
  · rintro ⟨h0, h⟩ k hk
    cases k with
    | zero => simpa using h0
    | succ k => rw [addr_succ, h k (by simpa using hk), List.getElem?_cons_succ]

theorem withWords_of_holds (l : List Word) (a : Addr) (hq : s.inside = []) (h : Holds s a l)
    (k : List Word → State → Result) : withWords s l.length a k = k l s := by
  induction l generalizing a k with
  | nil => rfl
  | cons w l ih =>
    obtain ⟨h0, h⟩ := holds_cons.1 h
    rw [List.length_cons, withWords, withWord_of_load hq h0]
    exact ih (a + 1) h _

/-- Setting an index register changes the index registers alone. -/
theorem State.setX_eq (s : State) (n : Nat) (v : Addr) : s.setX n v = { s with xr := (s.setX n v).xr } := by
  unfold State.setX; split <;> rfl

theorem State.x_setX {n m : Nat} (hn : n ≤ 15) (v : Addr) :
    (s.setX n v).x m = if m = n ∧ m ≠ 0 then v else s.x m := by
  split
  · next h => obtain ⟨rfl, h⟩ := h; exact s.x_setX_same h hn v
  · next h =>
    by_cases hm : m = n
    · subst hm
      have : m = 0 := by simpa using h
      subst this; rfl
    · exact s.x_setX_of_ne hm v

/-- Loading the pairs of a block changes the index registers alone. -/
theorem loadPairs_eq (n k : Nat) (l : List Word) (s : State) :
    loadPairs n k l s = { s with xr := (loadPairs n k l s).xr } := by
  induction l generalizing k s with
  | nil => rfl
  | cons w l ih =>
    have h : loadPair n k w s = { s with xr := (loadPair n k w s).xr } := by
      unfold loadPair
      dsimp only
      split
      · rw [State.setX_eq, State.setX_eq s]
      · exact State.setX_eq _ _ _
    rw [loadPairs, ih, h]

/-- What a block load leaves in the registers, the list holding pairs `k`, `k + 1`, … up to count `n`. -/
theorem loadPairs_x (n k : Nat) (l : List Word) (s : State) (hk : 1 ≤ k) (hn : n ≤ 15) (hl : k + l.length = n / 2 + 1)
    (j : Nat) :
    (loadPairs n k l s).x j =
      if 2 * k ≤ j ∧ j ≤ n then
        (if j % 2 = 0 then leftHalf (l.getD (j / 2 - k) 0) else rightHalf (l.getD (j / 2 - k) 0))
      else s.x j := by
  induction l generalizing k s with
  | nil =>
    simp only [List.length_nil, Nat.add_zero] at hl
    rw [loadPairs, if_neg (by omega)]
  | cons w l ih =>
    simp only [List.length_cons] at hl
    rw [loadPairs, ih (k + 1) _ (by omega) (by omega)]
    have hp : (loadPair n k w s).x j =
        if j = 2 * k then leftHalf w else if j = 2 * k + 1 ∧ j ≤ n then rightHalf w else s.x j := by
      unfold loadPair
      dsimp only
      split
      · rw [State.x_setX (by omega), State.x_setX (by omega)]
        split_ifs <;> first | rfl | omega
      · rw [State.x_setX (by omega)]
        split_ifs <;> first | rfl | omega
    by_cases h2 : 2 * (k + 1) ≤ j
    · rw [show j / 2 - k = j / 2 - (k + 1) + 1 by omega, List.getD_cons_succ]
      split_ifs <;> first | rfl | omega | (rw [hp]; split_ifs <;> first | rfl | omega)
    · rw [if_neg (by omega), hp]
      by_cases h3 : j = 2 * k
      · subst h3
        rw [if_pos rfl, if_pos (by omega), if_pos (by omega), show 2 * k / 2 - k = 0 by omega]; rfl
      · by_cases h4 : j = 2 * k + 1
        · subst h4
          rw [if_neg (by omega), show (2 * k + 1) / 2 - k = 0 by omega]
          split_ifs <;> first | rfl | omega
        · rw [if_neg h3, if_neg (by omega), if_neg (by omega)]

end Sys2Proof.Machine
end

