-- ==== Sys2Proof/Tests/Slice0.lean ====
section
/-! SUPPORT. Tests: what the form check refuses, every instruction's word read by the decoder, single steps from the
vectors of spec/95_test_vectors.md (their numbers stand in the names), and a witness for the hypotheses of every
statement that has any. -/

set_option maxRecDepth 8000
-- One theorem after the other: run side by side, these `decide`s each hold a thread that waits for the kernel.
set_option Elab.async false

namespace Sys2Proof.Tests

open Sys2Proof Sys2Proof.Machine

/-! ## The form check -/

/-- An operand part without modification. -/
def plain (y : Addr) : Operand := { f := false, t1 := 0, t2 := 0, y := y }

/-- An operand part with Tag 1 alone. -/
def tag (t : BitVec 4) (y : Addr) : Operand := { f := false, t1 := t, t2 := 0, y := y }

/-- Command flags with nothing on. -/
def noFlags : CmdFlags :=
  { spare := false, sixBit := false, bcd := false, advance := false, indirect := false, immediate := false }

/-- A member of a 370 group whose unmodified address is no selector of it (R111). -/
theorem test_wf_refuses_selectors :
    ([.clm (plain 1), .lbt (plain 0), .chs (plain 0o140), .ssp (plain 2),
      .enk (plain 5), .com (plain 5), .etm (plain 0o777777), .rnd (plain 0o11),
      .frn (plain 0o12), .pse (plain 0o145), .pbt (plain 3), .ssm (plain 1),
      .ltm (plain 0o15), .mse (plain 0o140)] : List Instr).all (fun i => !i.wellFormed) = true := by decide

/-- The same with a modified address is accepted: the selector is then known only at execution (R111). -/
theorem test_wf_accepts_modified_address : (Instr.clm (tag 1 1)).wellFormed = true := by decide

theorem test_wf_accepts_selectors :
    ([.enk (plain 4), .rnd (plain 0o10), .frn (plain 0o11), .pse (plain 0o166),
      .mse (plain 0o144), .pbt (plain 1), .lbt (plain 1), .etm (plain 7),
      .ltm (plain 7), .com (plain 6), .clm (plain 0), .chs (plain 2),
      .ssp (plain 3), .ssm (plain 3)] : List Instr).all Instr.wellFormed = true := by decide

/-- A channel command with its spare position on (R452). -/
theorem test_wf_refuses_spare_position :
    ([.chSense 0 { noFlags with spare := true } 0, .chReadBackward 0 { noFlags with spare := true } 0,
      .chWrite 0 { noFlags with spare := true } 0, .chRead 0 { noFlags with spare := true } 0,
      .chControl 0 { noFlags with spare := true } 0, .chTch { noFlags with spare := true } 0,
      .chXec { noFlags with spare := true } 0] : List Instr).all (fun i => !i.wellFormed) = true := by decide

theorem test_wf_accepts_command : (Instr.chRead 0 noFlags 0).wellFormed = true := by decide

/-! ## Decoding: every instruction's word, from spec/opcode_table.json and 30_encoding.md -/

/-- The decoder reads the instruction from the word, `ea` being its effective address. -/
def reads (w : Word) (ea : Addr) (i : Instr) : Bool :=
  match decodeCpu w ea with
  | .ok j => decide (j = i)
  | .error _ => false

/-- The decoder of a channel reads the instruction from the word. -/
def channelReads (w : Word) (i : Instr) : Bool := decide (decodeChannel w = some i)

/-- F on, Tag 1 ten, Tag 2 five, address 0o123456: every bit of the operand part is told apart. -/
def full : Operand := { f := true, t1 := 10, t2 := 5, y := 0o123456 }

theorem test_decode_word_transmission :
    ([(0o240645123456, .cla full), (0o640645123456, .cal full), (0o242645123456, .cls full),
      (0o320645123456, .lla full), (0o321645123456, .lra full), (0o270645123456, .ldq full),
      (0o223645123456, .dla full), (0o322645123456, .dlld full), (0o323645123456, .dldn full),
      (0o301645123456, .sto full), (0o302645123456, .slw full), (0o324645123456, .stal full),
      (0o325645123456, .star full), (0o326645123456, .stan full), (0o700645123456, .stq full),
      (0o710645123456, .slq full), (0o703645123456, .dst full), (0o327645123456, .dlsf full),
      (0o330645123456, .dstn full), (0o300645123456, .stz full), (0o715645123456, .stl full),
      (0o051645123456, .xca full), (0o451645123456, .xcl full), (0o331645123456, .scpu full),
      (0o332645123456, .rcpu full)] : List (Word × Instr)).all
      (fun p => reads p.1 0 p.2) = true := by decide

theorem test_decode_word_transmission_selectors :
    ([(0o370000000004, 4, .enk (plain 4))] : List (Word × Addr × Instr)).all
      (fun p => reads p.1 p.2.1 p.2.2) = true := by decide

theorem test_decode_fixed_point :
    ([(0o200645123456, .add full), (0o201645123456, .adm full), (0o171645123456, .acl full),
      (0o202645123456, .sub full), (0o600645123456, .sbm full), (0o100645123456, .mpy full),
      (0o500645123456, .mpr full), (0o333645123456, .imp full), (0o104645123456, .vlm full),
      (0o111645123456, .dvt full), (0o334645123456, .idv full), (0o115645123456, .vdt full)] : List (Word × Instr)).all
      (fun p => reads p.1 0 p.2) = true := by decide

theorem test_decode_fixed_point_selectors :
    ([(0o370000000010, 0o10, .rnd (plain 0o10))] : List (Word × Addr × Instr)).all
      (fun p => reads p.1 p.2.1 p.2.2) = true := by decide

theorem test_decode_floating_point :
    ([(0o140645123456, .fad full), (0o144645123456, .fam full), (0o540645123456, .ufa full),
      (0o544645123456, .uam full), (0o142645123456, .fsb full), (0o146645123456, .fsm full),
      (0o542645123456, .ufs full), (0o546645123456, .usm full), (0o130645123456, .fmp full),
      (0o530645123456, .ufm full), (0o121645123456, .fdt full), (0o120645123456, .fdh full),
      (0o335645123456, .frd full), (0o336645123456, .adxp full), (0o141645123456, .dfad full),
      (0o145645123456, .dfam full), (0o541645123456, .dufa full), (0o545645123456, .duam full),
      (0o143645123456, .dfsb full), (0o147645123456, .dfsm full), (0o543645123456, .dufs full),
      (0o547645123456, .dusm full), (0o131645123456, .dfmp full), (0o531645123456, .dufm full),
      (0o521645123456, .dfdt full), (0o337645123456, .dfrd full)] : List (Word × Instr)).all
      (fun p => reads p.1 0 p.2) = true := by decide

theorem test_decode_floating_point_selectors :
    ([(0o370000000011, 0o11, .frn (plain 0o11))] : List (Word × Addr × Instr)).all
      (fun p => reads p.1 p.2.1 p.2.2) = true := by decide

theorem test_decode_shifting :
    ([(0o377645123456, .als full), (0o777645123456, .ars full), (0o373645123456, .lls full),
      (0o375645123456, .lrs full), (0o773645123456, .lgl full), (0o775645123456, .lgr full),
      (0o772645123456, .rql full)] : List (Word × Instr)).all
      (fun p => reads p.1 0 p.2) = true := by decide

theorem test_decode_control :
    ([(0o371645123456, .nop full), (0o210645123456, .hpr full), (0o000645123456, .htr full),
      (0o252645123456, .xec full), (0o010645123456, .tra full), (0o011645123456, .ttr full),
      (0o040645123456, .tze full), (0o440645123456, .tnz full), (0o050645123456, .tpl full),
      (0o450645123456, .tmi full), (0o340645123456, .tzm full), (0o341645123456, .tzp full),
      (0o342645123456, .tgz full), (0o343645123456, .tlz full), (0o060645123456, .tov full),
      (0o460645123456, .tno full), (0o072645123456, .tqp full), (0o020645123456, .tlq full),
      (0o250645123456, .zet full), (0o650645123456, .nzt full), (0o160645123456, .cas full),
      (0o560645123456, .las full), (0o344645123456, .tsl full), (0o345645123456, .smp full),
      (0o346645123456, .ltmr full), (0o347645123456, .stmr full), (0o720645123456, .lrtc full),
      (0o721645123456, .srtc full), (0o722645123456, .ctr full), (0o723645123456, .ptr full),
      (0o724645123456, .scar full), (0o725645123456, .cmon full)] : List (Word × Instr)).all
      (fun p => reads p.1 0 p.2) = true := by decide

theorem test_decode_control_selectors :
    ([(0o370000000166, 0o166, .pse (plain 0o166)), (0o770000000144, 0o144, .mse (plain 0o144)),
      (0o770000000001, 1, .pbt (plain 1)), (0o370000000001, 1, .lbt (plain 1)),
      (0o370000000007, 7, .etm (plain 7)), (0o770000000007, 7, .ltm (plain 7))] : List (Word × Addr × Instr)).all
      (fun p => reads p.1 p.2.1 p.2.2) = true := by decide

theorem test_decode_index :
    ([(0o374645123456, .axi full), (0o774645123456, .axc full), (0o354645123456, .pax full),
      (0o357645123456, .pac full), (0o364645123456, .pxa full), (0o764645123456, .pxd full),
      (0o757645123456, .pdc full), (0o766645123456, .pcd full), (0o366645123456, .pca full),
      (0o314645123456, .sxa full), (0o714645123456, .sxd full), (0o316645123456, .sca full),
      (0o716645123456, .scd full), (0o254645123456, .lxa full), (0o654645123456, .lxd full),
      (0o255645123456, .lac full), (0o655645123456, .ldc full), (0o726645123456, .adxs full),
      (0o727645123456, .adxd full), (0o730645123456, .adxi full), (0o731645123456, .sbxs full),
      (0o732645123456, .sbxd full), (0o733645123456, .sbxi full), (0o734645123456, .pchx full),
      (0o041645123456, .tsx full), (0o735645123456, .txf full), (0o736645123456, .txrh full),
      (0o737645123456, .txnh full), (0o740645123456, .txrl full), (0o741645123456, .txnl full),
      (0o742645123456, .txre full), (0o743645123456, .txne full), (0o744645123456, .lxs full),
      (0o745645123456, .cxs full), (0o746645123456, .cxd full), (0o747645123456, .cxi full),
      (0o260645123456, .xlf full), (0o261645123456, .xlb full), (0o262645123456, .smx full),
      (0o263645123456, .lmx full)] : List (Word × Instr)).all
      (fun p => reads p.1 0 p.2) = true := by decide

theorem test_decode_logical :
    ([(0o641645123456, .ora full), (0o702645123456, .ors full), (0o550645123456, .ana full),
      (0o150645123456, .ans full), (0o152645123456, .era full), (0o264645123456, .ers full),
      (0o265645123456, .ados full)] : List (Word × Instr)).all
      (fun p => reads p.1 0 p.2) = true := by decide

theorem test_decode_logical_selectors :
    ([(0o370000000006, 6, .com (plain 6)), (0o370000000000, 0, .clm (plain 0)),
      (0o370000000002, 2, .chs (plain 2)), (0o370000000003, 3, .ssp (plain 3)),
      (0o770000000003, 3, .ssm (plain 3))] : List (Word × Addr × Instr)).all
      (fun p => reads p.1 p.2.1 p.2.2) = true := by decide

theorem test_decode_sense_indicator :
    ([(0o221645123456, .ldi full), (0o304645123456, .sti full), (0o024645123456, .pai full),
      (0o426645123456, .pia full), (0o023645123456, .oai full), (0o222645123456, .osi full),
      (0o266645123456, .ois full), (0o437645123456, .ril full), (0o037645123456, .rir full),
      (0o435645123456, .sil full), (0o035645123456, .sir full), (0o422645123456, .ria full),
      (0o225645123456, .ris full), (0o021645123456, .iia full), (0o220645123456, .iis full),
      (0o431645123456, .iil full), (0o031645123456, .iir full), (0o224645123456, .oft full),
      (0o226645123456, .ont full), (0o034645123456, .rft full), (0o036645123456, .rnt full),
      (0o434645123456, .lft full), (0o436645123456, .lnt full), (0o267645123456, .laci full),
      (0o660645123456, .saci full), (0o661645123456, .lasi full), (0o662645123456, .casi full)] : List (Word × Instr)).all
      (fun p => reads p.1 0 p.2) = true := by decide

theorem test_decode_special_purpose :
    ([(0o663645123456, .flt full), (0o664645123456, .fix full), (0o665645123456, .cdec full),
      (0o666645123456, .cbin full), (0o667645123456, .sqxl full), (0o230645123456, .sxar full),
      (0o231645123456, .sqxt full), (0o232645123456, .sxat full), (0o630645123456, .sbp full)] : List (Word × Instr)).all
      (fun p => reads p.1 0 p.2) = true := by decide

theorem test_decode_input_output :
    ([(0o233645123456, .stc full), (0o234645123456, .cht full), (0o235645123456, .sch full),
      (0o236645123456, .hch full), (0o237645123456, .ict full), (0o631645123456, .enb full)] : List (Word × Instr)).all
      (fun p => reads p.1 0 p.2) = true := by decide

/-- The printed examples A3 and A7 of 95_test_vectors.md. -/
theorem test_decode_printed_examples :
    (reads 0o240022000300 0o300 (.cla { f := false, t1 := 1, t2 := 2, y := 0o300 }) &&
      reads 0o010003000500 0o500 (.tra { f := false, t1 := 0, t2 := 3, y := 0o500 })) = true := by decide

/-- Unassigned codes and selectors are refused by name (R116). -/
theorem test_decode_refuses :
    decodeCpu 0o001000000000 0 = .error .unassignedOperation ∧
      decodeCpu 0o377777000000 0 = .ok (.als { f := true, t1 := 15, t2 := 15, y := 0 }) ∧
      decodeCpu 0o370000000005 5 = .error .unassignedSelector ∧
      decodeCpu 0o770000000140 0o140 = .error .unassignedSelector := ⟨rfl, rfl, rfl, rfl⟩

/-- K1 to K9: the channel commands, and two patterns assigned to nothing. -/
theorem test_decode_channel_commands :
    (channelReads 0o700200004000 (.chRead 0 noFlags 0o4000) &&
      channelReads 0o700104004000 (.chWrite 0 { noFlags with advance := true } 0o4000) &&
      channelReads 0o700301000000 (.chControl 0 { noFlags with immediate := true } 0) &&
      channelReads 0o700400005000 (.chSense 0 noFlags 0o5000) &&
      channelReads 0o701400005000 (.chReadBackward 0 noFlags 0o5000) &&
      channelReads 0o740000001000 (.chTch noFlags 0o1000) &&
      channelReads 0o740100001000 (.chXec noFlags 0o1000) &&
      decide (decodeChannel 0o740200001000 = none) && decide (decodeChannel 0o701000000000 = none)) = true := by
  decide

/-- The modifier bits and the flags, each position told apart (R451, R452). -/
theorem test_decode_channel_modifiers :
    (channelReads 0o725132000001
        (.chWrite 0b101010 { noFlags with sixBit := true, advance := false, bcd := true, indirect := true } 1) &&
      channelReads 0o724440000001 (.chSense 0b1010 { noFlags with spare := true } 1)) = true := by decide

/-- W1 to W7: the data control words, and two patterns assigned to nothing. -/
theorem test_decode_control_words :
    (channelReads 0o000012004000 (.dcwTcw 10 0o4000) && channelReads 0o400012004000 (.dcwCcw 10 0o4000) &&
      channelReads 0o500012004000 (.dcwCcwn 10 0o4000) && channelReads 0o200012004000 (.dcwTcwInd 10 0o4000) &&
      channelReads 0o600012004000 (.dcwCcwInd 10 0o4000) && channelReads 0o077777000000 (.dcwTcw 32767 0) &&
      decide (decodeChannel 0o100012004000 = none) && decide (decodeChannel 0o300012004000 = none)) = true := by
  decide

/-- The host's two questions: the table word is read, and runs as the first step after reset. -/
theorem test_table_word : decodeTableWord 40 0o240000000300 = some (.cla (plain 0o300)) := by decide

/-! ## Single steps, from the vectors of 95_test_vectors.md -/

/-- The instruction at location 0o100, the other words of storage as listed, the rest as after reset. -/
def at100 (m : Memory) (f : State → State := id) : State := f { State.reset with pc := 0o100, mem := m }

/-- One step goes on and leaves what `k` says. -/
def leaves (s : State) (k : State → Bool) : Bool :=
  match step s with
  | .next t => k t
  | .fault _ => false
  | .refused _ => false

theorem test_withFetchWord_runs :
    leaves (State.reset.withFetchWord 40 0o370000000002) (fun t => t.ac == { s := true, m := 0 } && t.pc == 1) =
      true := by decide

theorem test_V1_cla :
    leaves (at100 [(0o100, 0o240000000200), (0o200, 0o400000000005)]
        fun s => { s with ac := { s := false, m := 0o1400000000777 } })
      (fun t => t.ac == { s := true, m := 5 } && t.pc == 0o101) = true := by decide

theorem test_V3_cal :
    leaves (at100 [(0o100, 0o640000000200), (0o200, 0o400000000005)]
        fun s => { s with ac := { s := true, m := 0o1000000000001 } })
      (fun t => t.ac == { s := false, m := 0o400000000005 } && t.pc == 0o101) = true := by decide

theorem test_V4_cls :
    leaves (at100 [(0o100, 0o242000000200), (0o200, 0)])
      (fun t => t.ac == { s := true, m := 0 } && t.pc == 0o101) = true := by decide

theorem test_V5_lla :
    leaves (at100 [(0o100, 0o320000000200), (0o200, 0o400001000002)]
        fun s => { s with ac := { s := true, m := 0o1777777777777 } })
      (fun t => t.ac == { s := false, m := 0o400001 } && t.pc == 0o101) = true := by decide

theorem test_V8_dla :
    leaves (at100 [(0, 0o400000000002), (0o100, 0o223000777777), (0o777777, 1)])
      (fun t => t.ac == { s := false, m := 1 } && t.mq == 0o400000000002 && t.pc == 0o101) = true := by decide

theorem test_V11_dldn :
    leaves (at100 [(0o100, 0o323000000200), (0o200, 0o400000000003), (0o201, 0o400000000004)])
      (fun t => t.ac == { s := false, m := 3 } && t.mq == 4 && t.pc == 0o101) = true := by decide

theorem test_V12_sto :
    leaves (at100 [(0o100, 0o301000000200), (0o200, 0)] fun s => { s with ac := { s := true, m := 0o1400000000005 } })
      (fun t => t.load 0o200 == some 0o400000000005 && t.pc == 0o101) = true := by decide

theorem test_V13_slw :
    leaves (at100 [(0o100, 0o302000000200), (0o200, 0)] fun s => { s with ac := { s := true, m := 0o400000000005 } })
      (fun t => t.load 0o200 == some 0o400000000005 && t.pc == 0o101) = true := by decide

theorem test_V14_stal :
    leaves (at100 [(0o100, 0o324000000200), (0o200, 0o777777)]
        fun s => { s with ac := { s := false, m := 0o123456400001 } })
      (fun t => t.load 0o200 == some 0o400001777777 && t.pc == 0o101) = true := by decide

theorem test_V16_stan :
    leaves (at100 [(0o100, 0o326000000200), (0o200, 7)] fun s => { s with ac := { s := false, m := 0 } })
      (fun t => t.load 0o200 == some 0o400000000000 && t.ac == { s := false, m := 0 } &&
        t.pc == 0o101) = true := by decide

theorem test_V18_slq :
    leaves (at100 [(0o100, 0o710000000200), (0o200, 0o777777)] fun s => { s with mq := 0o123456654321 })
      (fun t => t.load 0o200 == some 0o123456777777 && t.pc == 0o101) = true := by decide

theorem test_V21_dstn :
    leaves (at100 [(0o100, 0o330000000200), (0o200, 0), (0o201, 0)]
        fun s => { s with ac := { s := false, m := 3 }, mq := 4 })
      (fun t => t.load 0o200 == some 0o400000000003 && t.load 0o201 == some 0o400000000004 &&
        t.pc == 0o101) = true := by decide

theorem test_V24_stl :
    leaves (at100 [(0o100, 0o715000000200), (0o200, 0o10000000000)])
      (fun t => t.load 0o200 == some 0o10000000101 && t.pc == 0o101) = true := by decide

theorem test_V25_xca :
    leaves (at100 [(0o100, 0o051000000000)]
        fun s => { s with ac := { s := false, m := 0o400000000005 }, mq := 0o400000000002 })
      (fun t => t.ac == { s := true, m := 2 } && t.mq == 5 && t.pc == 0o101) = true := by decide

theorem test_V26_xcl :
    leaves (at100 [(0o100, 0o451000000000)] fun s => { s with ac := { s := true, m := 0o400000000000 }, mq := 3 })
      (fun t => t.ac == { s := false, m := 3 } && t.mq == 0o400000000000 && t.pc == 0o101) = true := by decide

theorem test_V27_scpu :
    leaves (at100 [(0o100, 0o331060000200), (0o200, 0), (0o201, 0), (0o202, 0)]
        fun s => (({ s with ac := { s := true, m := 1 }, ov := true, ixe := true }.setX 1 0o11).setX 2 0o22).setX 3 0o33)
      (fun t => t.load 0o200 == some 0o400000000001 && t.load 0o201 == some 0o410000000011 &&
        t.load 0o202 == some 0o22000033 && t.pc == 0o101) = true := by decide

theorem test_V28_scpu :
    leaves (at100 [(0o100, 0o331100000200), (0o200, 0), (0o201, 0), (0o202, 0), (0o203, 0)]
        fun s => ((({ s with ac := { s := false, m := 0o1400000000007 }, ixh := true }.setX 1 1).setX 2 2).setX 3 3).setX 4 4)
      (fun t => t.load 0o200 == some 7 && t.load 0o201 == some 0o340000000001 && t.load 0o202 == some 0o2000003 &&
        t.load 0o203 == some 0o4000000 && t.pc == 0o101) = true := by decide

theorem test_V30_rcpu :
    leaves (at100 [(0o100, 0o332060000200), (0o200, 0o400000000001), (0o201, 0o410000000011),
        (0o202, 0o22000033)] fun s => { s with ac := { s := false, m := 0o1400000000000 } })
      (fun t => t.ac == { s := true, m := 1 } && t.ov && !t.ixh && !t.ixl && t.ixe && t.x 1 == 0o11 &&
        t.x 2 == 0o22 && t.x 3 == 0o33 && t.pc == 0o101) = true := by decide

theorem test_V32_add :
    leaves (at100 [(0o100, 0o200000000200), (0o200, 0o400000000005)] fun s => { s with ac := { s := false, m := 5 } })
      (fun t => t.ac == { s := false, m := 0 } && !t.ov && t.pc == 0o101) = true := by decide

theorem test_V34_add :
    leaves (at100 [(0o100, 0o200000000200), (0o200, 1)] fun s => { s with ac := { s := false, m := 0o377777777777 } })
      (fun t => t.ac == { s := false, m := 0o400000000000 } && t.ov && t.pc == 0o101) = true := by decide

theorem test_V39_acl :
    leaves (at100 [(0o100, 0o171000000200), (0o200, 1)] fun s => { s with ac := { s := true, m := 0o1777777777777 } })
      (fun t => t.ac == { s := true, m := 0o1000000000001 } && !t.ov && t.pc == 0o101) = true := by decide

theorem test_V43_sub :
    leaves (at100 [(0o100, 0o202000000200), (0o200, 1)] fun s => { s with ac := { s := true, m := 0o377777777777 } })
      (fun t => t.ac == { s := true, m := 0o400000000000 } && t.ov && t.pc == 0o101) = true := by decide

theorem test_V46_mpy :
    leaves (at100 [(0o100, 0o100000000200), (0o200, 0o377777777777)] fun s => { s with mq := 0o377777777777 })
      (fun t => t.ac == { s := false, m := 0o377777777776 } && t.mq == 1 && t.pc == 0o101) = true := by decide

theorem test_V48_mpr :
    leaves (at100 [(0o100, 0o500000000200), (0o200, 1)] fun s => { s with mq := 0o200000000000 })
      (fun t => t.ac == { s := false, m := 1 } && t.mq == 0o200000000000 && t.pc == 0o101) = true := by decide

theorem test_V51_imp :
    leaves (at100 [(0o100, 0o333000000200), (0o200, 2)] fun s => { s with ac := { s := false, m := 0o200000000000 } })
      (fun t => t.ac == { s := false, m := 0 } && t.mq == 1 && t.ov && t.pc == 0o101) = true := by decide

theorem test_V55_vlm :
    leaves (at100 [(0o100, 0o104060000200), (0o200, 2)] fun s => { s with ac := { s := false, m := 0o77 }, mq := 5 })
      (fun t => t.ac == { s := false, m := 1 } && t.mq == 0o100000000000 && t.pc == 0o101) = true := by decide

theorem test_V57_vlm :
    leaves (at100 [(0o100, 0o104360000200), (0o200, 0o400000077777)]
        fun s => { s with ac := { s := false, m := 0 }, mq := 0o77777 })
      (fun t => t.ac == { s := true, m := 0o77776 } && t.mq == 0o400004000000 && t.pc == 0o101) = true := by decide

theorem test_V59_rnd :
    leaves (at100 [(0o100, 0o370000000010)]
        fun s => { s with ac := { s := true, m := 0o377777777777 }, mq := 0o600000000000 })
      (fun t => t.ac == { s := true, m := 0o400000000000 } && t.ov && t.pc == 0o101) = true := by decide

theorem test_V61_dvt :
    leaves (at100 [(0o100, 0o111000000200), (0o200, 2)] fun s => { s with ac := { s := true, m := 1 }, mq := 0 })
      (fun t => t.ac == { s := true, m := 0 } && t.mq == 0o600000000000 && t.pc == 0o101) = true := by decide

theorem test_V62_idv :
    leaves (at100 [(0o100, 0o334000000200), (0o200, 5)]
        fun s => { s with ac := { s := true, m := 0o21 }, mq := 0o777 })
      (fun t => t.ac == { s := true, m := 3 } && t.mq == 0o400000000002 && t.pc == 0o101) = true := by decide

theorem test_V69_vdt :
    leaves (at100 [(0o100, 0o115360000200), (0o200, 7)]
        fun s => { s with ac := { s := false, m := 0 }, mq := 0o310000000 })
      (fun t => t.ac == { s := false, m := 1 } && t.mq == 7 && t.pc == 0o101) = true := by decide

theorem test_V73_adxp :
    leaves (at100 [(0o100, 0o336002000000)] fun s => { s with ac := { s := false, m := 0o201400000000 } }.setX 2 2)
      (fun t => t.ac == { s := false, m := 0o177400000000 } && t.pc == 0o101) = true := by decide

theorem test_V76_fad :
    leaves (at100 [(0o100, 0o140000000200), (0o200, 0o200400000000)]
        fun s => { s with ac := { s := false, m := 0o203600000000 } })
      (fun t => t.ac == { s := false, m := 0o203640000000 } && t.mq == 0o150000000000 &&
        t.pc == 0o101) = true := by decide

theorem test_V81_uam :
    leaves (at100 [(0o100, 0o544000000200), (0o200, 0o633000000002)]
        fun s => { s with ac := { s := false, m := 0o233000000005 } })
      (fun t => t.ac == { s := false, m := 0o233000000007 } && t.mq == 0o200000000000 &&
        t.pc == 0o101) = true := by decide

theorem test_V84_fmp :
    leaves (at100 [(0o100, 0o130000000200), (0o200, 0o202600000000)] fun s => { s with mq := 0o202400000000 })
      (fun t => t.ac == { s := false, m := 0o203600000000 } && t.mq == 0o150000000000 &&
        t.pc == 0o101) = true := by decide

theorem test_V88_frn :
    leaves (at100 [(0o100, 0o370000000011)]
        fun s => { s with ac := { s := false, m := 0o201777777777 }, mq := 0o146400000000 })
      (fun t => t.ac == { s := false, m := 0o202400000000 } && t.pc == 0o101) = true := by decide

theorem test_V89_fdt :
    leaves (at100 [(0o100, 0o121000000200), (0o200, 0o202400000000)]
        fun s => { s with ac := { s := false, m := 0o203600000000 } })
      (fun t => t.ac == { s := false, m := 0o151000000000 } && t.mq == 0o202600000000 &&
        t.pc == 0o101) = true := by decide

theorem test_V91_frd :
    leaves (at100 [(0o100, 0o335000000200), (0o200, 0o603600000000)]
        fun s => { s with ac := { s := false, m := 0o202400000000 } })
      (fun t => t.ac == { s := true, m := 0o202600000000 } && t.mq == 0o551000000000 &&
        t.pc == 0o101) = true := by decide

theorem test_V93_als :
    leaves (at100 [(0o100, 0o377000000001)] fun s => { s with ac := { s := false, m := 0o200000000000 } })
      (fun t => t.ac == { s := false, m := 0o400000000000 } && t.ov && t.pc == 0o101) = true := by decide

theorem test_V94_als :
    leaves (at100 [(0o100, 0o377000000001)] fun s => { s with ac := { s := true, m := 0o400000000000 } })
      (fun t => t.ac == { s := true, m := 0o1000000000000 } && !t.ov && t.pc == 0o101) = true := by decide

theorem test_V99_ars :
    leaves (at100 [(0o100, 0o777000000001)] fun s => { s with ac := { s := false, m := 0o1000000000001 } })
      (fun t => t.ac == { s := false, m := 0o400000000000 } && t.pc == 0o101) = true := by decide

theorem test_V100_lls :
    leaves (at100 [(0o100, 0o373000000001)] fun s => { s with ac := { s := false, m := 0 }, mq := 0o600000000000 })
      (fun t => t.ac == { s := true, m := 1 } && t.mq == 0o400000000000 && !t.ov && t.pc == 0o101) = true := by decide

theorem test_V106_lgl :
    leaves (at100 [(0o100, 0o773000000044)] fun s => { s with ac := { s := true, m := 7 }, mq := 0o400000000001 })
      (fun t => t.ac == { s := true, m := 0o1400000000001 } && t.mq == 0 && t.ov && t.pc == 0o101) = true := by decide

theorem test_V107_lgr :
    leaves (at100 [(0o100, 0o775000000001)] fun s => { s with ac := { s := false, m := 1 }, mq := 0 })
      (fun t => t.ac == { s := false, m := 0 } && t.mq == 0o400000000000 && t.pc == 0o101) = true := by decide

theorem test_V110_rql :
    leaves (at100 [(0o100, 0o772000000022)] fun s => { s with mq := 0o123456701234 })
      (fun t => t.mq == 0o701234123456 && t.pc == 0o101) = true := by decide

theorem test_V113_htr :
    leaves (at100 [(0o100, 0o000000000500)])
      (fun t => t.pc == 0o500 && t.halted) = true := by decide

theorem test_V114_xec :
    leaves (at100 [(0o100, 0o252000000200), (0o200, 0o240000000300), (0o300, 0o42)])
      (fun t => t.ac == { s := false, m := 0o42 } && t.pc == 0o101) = true := by decide

theorem test_V115_xec :
    leaves (at100 [(0o100, 0o252000000200), (0o200, 0o41100000500)])
      (fun t => t.x 4 == 0o777700 && t.pc == 0o500) = true := by decide

theorem test_V117_tra :
    leaves (at100 [(0o100, 0o010003000500)] fun s => s.setX 3 2)
      (fun t => t.pc == 0o476) = true := by decide

theorem test_V118_ttr :
    leaves (at100 [(0o100, 0o011000000500)] fun s => { s with ttrap := true })
      (fun t => t.pc == 0o500 && t.ttrap) = true := by decide

theorem test_V125_tnz :
    leaves (at100 [(0o100, 0o440000000500)] fun s => { s with ac := { s := true, m := 0 } })
      (fun t => t.pc == 0o101) = true := by decide

theorem test_V136_tzm :
    leaves (at100 [(0o100, 0o340000000500)] fun s => { s with ac := { s := true, m := 5 } })
      (fun t => t.pc == 0o500) = true := by decide

theorem test_V149_tov :
    leaves (at100 [(0o100, 0o060000000500)] fun s => { s with ov := true })
      (fun t => t.pc == 0o500 && !t.ov) = true := by decide

theorem test_V155_tlq :
    leaves (at100 [(0o100, 0o020000000500)] fun s => { s with ac := { s := false, m := 2 }, mq := 0o400000000003 })
      (fun t => t.pc == 0o500) = true := by decide

theorem test_V157_tlq :
    leaves (at100 [(0o100, 0o020000000500)] fun s => { s with ac := { s := false, m := 0 }, mq := 0o400000000000 })
      (fun t => t.pc == 0o500) = true := by decide

theorem test_V159_pse :
    leaves (at100 [(0o100, 0o370000000142)])
      (fun t => lightOn t 2 && t.pc == 0o101) = true := by decide

theorem test_V160_mse :
    leaves (at100 [(0o100, 0o770000000143)] fun s => { s with lights := 4 })
      (fun t => !lightOn t 3 && t.pc == 0o102) = true := by decide

theorem test_V164_lbt :
    leaves (at100 [(0o100, 0o370000000001)] fun s => { s with ac := { s := true, m := 5 } })
      (fun t => t.pc == 0o102) = true := by decide

theorem test_V167_cas :
    leaves (at100 [(0o100, 0o160000000200), (0o200, 0o400000000000)] fun s => { s with ac := { s := false, m := 0 } })
      (fun t => t.pc == 0o102) = true := by decide

theorem test_V169_cas :
    leaves (at100 [(0o100, 0o160000000200), (0o200, 0o400000000003)] fun s => { s with ac := { s := true, m := 5 } })
      (fun t => t.pc == 0o103) = true := by decide

theorem test_V173_las :
    leaves (at100 [(0o100, 0o560000000200), (0o200, 0o400000000005)] fun s => { s with ac := { s := true, m := 5 } })
      (fun t => t.pc == 0o103) = true := by decide

theorem test_V175_tsl :
    leaves (at100 [(0o100, 0o344000777777), (0o777777, 0)])
      (fun t => t.load 0o777777 == some 0o101 && t.pc == 0) = true := by decide

theorem test_V176_smp :
    leaves (at100 [(0o100, 0o345000000200), (0o200, 0o1000007777)])
      (fun t => t.lpr == 2 && t.hpr == 0o17 && t.pc == 0o101) = true := by decide

theorem test_V181_axi :
    leaves (at100 [(0o100, 0o374063001000)] fun s => s.setX 3 0o10)
      (fun t => t.x 3 == 0o770 && t.pc == 0o101) = true := by decide

theorem test_V183_axc :
    leaves (at100 [(0o100, 0o774060000001)])
      (fun t => t.x 3 == 0o777777 && t.pc == 0o101) = true := by decide

theorem test_V189_pxd :
    leaves (at100 [(0o100, 0o764040000000)] fun s => s.setX 2 0o400001)
      (fun t => t.ac == { s := true, m := 0o1000000 } && t.pc == 0o101) = true := by decide

theorem test_V191_pdc :
    leaves (at100 [(0o100, 0o757040000000)] fun s => { s with ac := { s := true, m := 0 } })
      (fun t => t.x 2 == 0o400000 && t.pc == 0o101) = true := by decide

theorem test_V197_scd :
    leaves (at100 [(0o100, 0o716100000200), (0o200, 0o111111222222)] fun s => s.setX 4 1)
      (fun t => t.load 0o200 == some 0o777777222222 && t.pc == 0o101) = true := by decide

theorem test_V199_lxd :
    leaves (at100 [(0o100, 0o654120000200), (0o200, 0o411111222222)])
      (fun t => t.x 5 == 0o411111 && t.pc == 0o101) = true := by decide

theorem test_V201_ldc :
    leaves (at100 [(0o100, 0o655120000200), (0o200, 0o3000000)])
      (fun t => t.x 5 == 0o777775 && t.pc == 0o101) = true := by decide

theorem test_V203_lxs :
    leaves (at100 [(0o100, 0o744120000200), (0o200, 0o377777000003)])
      (fun t => t.x 5 == 3 && t.pc == 0o101) = true := by decide

theorem test_V204_adxs :
    leaves (at100 [(0o100, 0o726020000200), (0o200, 0o400000000003)] fun s => { s with ixe := true }.setX 1 0o12)
      (fun t => t.x 1 == 7 && !t.ixh && !t.ixl && t.ixe && t.pc == 0o101) = true := by decide

theorem test_V207_adxd :
    leaves (at100 [(0o100, 0o727020000200), (0o200, 0o555555000003)] fun s => s.setX 1 0o777776)
      (fun t => t.x 1 == 1 && t.ixh && !t.ixl && !t.ixe && t.pc == 0o101) = true := by decide

theorem test_V208_adxd :
    leaves (at100 [(0o100, 0o727020000200), (0o200, 2)] fun s => s.setX 1 5)
      (fun t => t.x 1 == 7 && !t.ixh && t.ixl && !t.ixe && t.pc == 0o101) = true := by decide

theorem test_V212_sbxd :
    leaves (at100 [(0o100, 0o732020000200), (0o200, 3)] fun s => s.setX 1 2)
      (fun t => t.x 1 == 0o777777 && !t.ixh && t.ixl && !t.ixe && t.pc == 0o101) = true := by decide

theorem test_V213_sbxd :
    leaves (at100 [(0o100, 0o732020000200), (0o200, 2)] fun s => s.setX 1 7)
      (fun t => t.x 1 == 5 && t.ixh && !t.ixl && !t.ixe && t.pc == 0o101) = true := by decide

theorem test_V215_pchx :
    leaves (at100 [(0o100, 0o734060000000)]
        fun s => { s with ac := { s := true, m := 0o1601400000000 } }.setX 3 0o777777)
      (fun t => t.x 3 == 0o201 && t.pc == 0o101) = true := by decide

theorem test_V216_tsx :
    leaves (at100 [(0o100, 0o041100000500)])
      (fun t => t.x 4 == 0o777700 && t.pc == 0o500) = true := by decide

theorem test_V219_txf :
    leaves (at100 [(0o100, 0o735020000500)] fun s => s.setX 1 0)
      (fun t => t.x 1 == 0o777777 && t.pc == 0o500) = true := by decide

theorem test_V222_cxi :
    leaves (at100 [(0o100, 0o747020000005)] fun s => s.setX 1 0o777777)
      (fun t => t.ixh && !t.ixl && !t.ixe && t.pc == 0o101) = true := by decide

theorem test_V223_cxi :
    leaves (at100 [(0o100, 0o747000000005)])
      (fun t => !t.ixh && t.ixl && !t.ixe && t.pc == 0o101) = true := by decide

theorem test_V225_cxs :
    leaves (at100 [(0o100, 0o745020000200), (0o200, 0o400000000003)] fun s => s.setX 1 0o777775)
      (fun t => !t.ixh && !t.ixl && t.ixe && t.pc == 0o101) = true := by decide

theorem test_V229_txnl :
    leaves (at100 [(0o100, 0o741000000500)] fun s => { s with ixe := true })
      (fun t => t.pc == 0o500) = true := by decide

theorem test_V232_txre :
    leaves (at100 [(0o100, 0o742022000500)] fun s => ({ s with ixe := true }.setX 1 3).setX 2 4)
      (fun t => t.pc == 0o471) = true := by decide

theorem test_V235_xlf :
    leaves (at100 [(0o100, 0o260120000500)] fun s => ((s.setX 1 0o12).setX 2 3).setX 5 0o777776)
      (fun t => t.x 5 == 1 && t.pc == 0o500) = true := by decide

theorem test_V236_xlf :
    leaves (at100 [(0o100, 0o260020000500)] fun s => (s.setX 1 0o12).setX 2 3)
      (fun t => t.x 1 == 0o15 && t.pc == 0o500) = true := by decide

theorem test_V238_xlb :
    leaves (at100 [(0o100, 0o261120000500)] fun s => ((s.setX 1 2).setX 2 0o777777).setX 5 2)
      (fun t => t.x 5 == 1 && t.pc == 0o101) = true := by decide

theorem test_V239_smx :
    leaves (at100 [(0o100, 0o262100000200), (0o200, 0o777777000000), (0o201, 0), (0o202, 0)]
        fun s => (((s.setX 1 1).setX 2 2).setX 3 3).setX 4 4)
      (fun t => t.load 0o200 == some 0o777777000001 && t.load 0o201 == some 0o2000003 &&
        t.load 0o202 == some 0o4000000 && t.pc == 0o101) = true := by decide

theorem test_V242_lmx :
    leaves (at100 [(0o100, 0o263062000210), (0o200, 1), (0o201, 0o2000003)] fun s => s.setX 2 0o10)
      (fun t => t.x 1 == 1 && t.x 2 == 2 && t.x 3 == 3 && t.pc == 0o101) = true := by decide

theorem test_V243_ora :
    leaves (at100 [(0o100, 0o641000000200), (0o200, 0o400000000003)]
        fun s => { s with ac := { s := true, m := 0o1000000000014 } })
      (fun t => t.ac == { s := true, m := 0o1400000000017 } && t.pc == 0o101) = true := by decide

theorem test_V245_ana :
    leaves (at100 [(0o100, 0o550000000200), (0o200, 0o400000000012)]
        fun s => { s with ac := { s := true, m := 0o1400000000017 } })
      (fun t => t.ac == { s := false, m := 0o400000000012 } && t.pc == 0o101) = true := by decide

theorem test_V249_com :
    leaves (at100 [(0o100, 0o370000000006)] fun s => { s with ac := { s := false, m := 0 } })
      (fun t => t.ac == { s := false, m := 0o1777777777777 } && t.pc == 0o101) = true := by decide

theorem test_V255_ados :
    leaves (at100 [(0o100, 0o265000000200), (0o200, 7)])
      (fun t => t.load 0o200 == some 0o10 && t.pc == 0o101) = true := by decide

theorem test_V257_ados :
    leaves (at100 [(0o100, 0o265000000200), (0o200, 0o400000000000)])
      (fun t => t.load 0o200 == some 1 && t.pc == 0o101) = true := by decide

theorem test_V261_pai :
    leaves (at100 [(0o100, 0o024000000000)] fun s => { s with ac := { s := true, m := 0o1400000000003 } })
      (fun t => t.si == 0o400000000003 && t.pc == 0o101) = true := by decide

theorem test_V262_pia :
    leaves (at100 [(0o100, 0o426000000000)]
        fun s => { s with ac := { s := true, m := 0o1000000000077 }, si := 0o400000000003 })
      (fun t => t.ac == { s := false, m := 0o400000000003 } && t.pc == 0o101) = true := by decide

theorem test_V270_sir :
    leaves (at100 [(0o100, 0o035002000007)] fun s => { s with si := 0 }.setX 2 4)
      (fun t => t.si == 3 && t.pc == 0o101) = true := by decide

theorem test_V275_iil :
    leaves (at100 [(0o100, 0o431000600000)] fun s => { s with si := 0o400000000000 })
      (fun t => t.si == 0o200000000000 && t.pc == 0o101) = true := by decide

theorem test_V280_ont :
    leaves (at100 [(0o100, 0o226000000200), (0o200, 5)] fun s => { s with si := 0o13 })
      (fun t => t.pc == 0o101) = true := by decide

theorem test_V281_ont :
    leaves (at100 [(0o100, 0o226000000200), (0o200, 0)] fun s => { s with si := 0 })
      (fun t => t.pc == 0o102) = true := by decide

theorem test_V285_lnt :
    leaves (at100 [(0o100, 0o436000400000)] fun s => { s with si := 0o600000000000 })
      (fun t => t.pc == 0o102) = true := by decide

theorem test_V287_laci :
    leaves (at100 [(0o100, 0o267000000200), (0o200, 0o123456765432)]
        fun s => { s with ac := { s := true, m := 0o1400000000000 }, si := 0o777777 })
      (fun t => t.ac == { s := false, m := 0o765432 } && t.pc == 0o101) = true := by decide

theorem test_V289_lasi :
    leaves (at100 [(0o100, 0o661000000200), (0o200, 0o111111222222)]
        fun s => { s with si := 0o777777, ac := { s := false, m := 0o123456765432 } })
      (fun t => t.load 0o200 == some 0o111111765432 && t.pc == 0o101) = true := by decide

theorem test_V293_casi :
    leaves (at100 [(0o100, 0o662000000200), (0o200, 0)]
        fun s => { s with si := 0o400000000000, ac := { s := true, m := 0o400000000000 } })
      (fun t => t.pc == 0o101) = true := by decide

theorem test_V295_flt :
    leaves (at100 [(0o100, 0o663000000200), (0o200, 5)])
      (fun t => t.ac == { s := false, m := 0o203500000000 } && t.pc == 0o101) = true := by decide

theorem test_V301_fix :
    leaves (at100 [(0o100, 0o664000000200), (0o200, 0o602500000000)])
      (fun t => t.ac == { s := true, m := 2 } && t.mq == 0o600000000000 && t.pc == 0o101) = true := by decide

theorem test_V306_sqxl :
    leaves (at100 [(0o100, 0o667060000011)] fun s => { s with mq := 0o123456000000 }.setX 3 0o777)
      (fun t => t.x 3 == 0o777123 && t.mq == 0o456000000000 && t.pc == 0o101) = true := by decide

theorem test_V312_sxar :
    leaves (at100 [(0o100, 0o230060000022)] fun s => { s with ac := { s := false, m := 0 } }.setX 3 0o723456)
      (fun t => t.ac == { s := false, m := 0o723456 } && t.pc == 0o101) = true := by decide

theorem test_V315_sqxt :
    leaves (at100 [(0o100, 0o231040000011)] fun s => ({ s with mq := 0o123456000000 }.setX 1 0).setX 2 6)
      (fun t => t.x 1 == 0o12 && t.mq == 0o345600000000 && t.x 2 == 0o777775 && t.pc == 0o101) = true := by decide

theorem test_V320_sxat :
    leaves (at100 [(0o100, 0o232040000006)]
        fun s => ({ s with ac := { s := false, m := 0o123 } }.setX 1 0o45).setX 2 3)
      (fun t => t.ac.logical == 0o1234 && t.x 1 == 0o45 && t.x 2 == 0o777775 && t.pc == 0o101) = true := by decide

/-! ## Traps, modes and channels (TE, I and K vectors) -/

/-- TE5: a transfer in Transfer Trap Mode. -/
theorem test_TE5_transfer_trap (s : State) (h : s.ttrap = true) (hq : s.inside = []) :
    exec (.tra (plain 0o500)) s = .next (takeTrap .transfer s) := by
  rw [exec, execTra, transferOn, withAddress_of_direct rfl, transferIf, if_pos rfl]
  exact transferTo_of_ttrap hq h

/-- TE6: where a monitor call goes. -/
theorem test_TE6_monitor_call (s : State) : (takeTrap (.monitorCall 0o17) s).pc = locationAddress .r10 := rfl

/-- TE4: what SMP at 0o1000 in Problem Program Mode saves at R5. -/
theorem test_TE4_saved_word (s : State) (h : s.il = 0o1000) (hp : s.problem = true) (hc : s.compat = false)
    (ht : s.ttrap = false) :
    (takeTrap .illegalOperation s).load (locationAddress .r5) = some 0o200000001001 := by
  have hne : locationAddress .r5 ≠ locationAddress .r2 := by simp
  have : (takeTrap .illegalOperation s).load (locationAddress .r5) =
      some (joinHalves (packModes s.compat s.problem s.ttrap) (s.il + 1)) := by
    show (((s.poke _ _).clearModes).poke (locationAddress .r2) _).load _ = _
    rw [State.load_poke_of_ne _ _ hne]
    exact State.load_poke_same _ _ _
  rw [this, h, hp, hc, ht]
  decide

/-- I1: STC starts channel A, in Monitor Mode with protection inhibited by the sign of the word. -/
theorem test_I1_stc :
    leaves (at100 [(0o100, 0o233000000200), (0o200, 0o500005001000), (0o1000, 0o700200004000)])
      (fun t =>
        let c := t.channel .a
        c.unit == 5 && c.lc == 0o1001 && c.inhibit && c.phase == .decode none 0o700200004000 && t.pc == 0o102) =
      true := by decide

/-- I3: in Problem Program Mode the sign does not inhibit protection. -/
theorem test_I3_stc :
    leaves (at100 [(0o100, 0o233000000200), (0o200, 0o500005001000), (0o1000, 0o700200004000)]
        fun s => { s with problem := true, car := 0o200 })
      (fun t => t.channel .a == { Channel.reset with
        unit := 5, lc := 0o1001, phase := .decode none 0o700200004000 } && t.pc == 0o102) = true := by decide

/-- I8, the sign of the select word on, so that the bounds of reset do not matter: SCH stores the counters of
channel A. -/
theorem test_I8_sch :
    leaves (at100 [(0o100, 0o235000000200), (0o200, 0o500000003000)]
        fun s => s.setChannel .a { s.channel .a with lc := 0o1003, wc := 10, da := 0o4000 })
      (fun t => t.load 0o3000 == some 0o000000001003 && t.load 0o3001 == some 0o000012004000 && t.pc == 0o101) =
      true := by decide

/-- I10: ICT replaces the whole mask. -/
theorem test_I10_ict :
    leaves (at100 [(0o100, 0o237000000200), (0o200, 0o040000000000)])
      (fun t => maskBit t.ictMask .b && !maskBit t.ictMask .a && !maskBit t.ictMask .c) = true := by decide

/-- I12: ENB sets the mask of channel A alone. -/
theorem test_I12_enb :
    leaves (at100 [(0o100, 0o631000000200), (0o200, 0o100000000003)])
      (fun t => (t.channel .a).enb == 3 && (t.channel .b).enb == 0) = true := by decide

/-- A reply of a device: no end, a word, nothing unusual. -/
def reply (w : Word) : DeviceReply :=
  { endSignal := false, word := w, nextAddress := 0
    conditions := { dataError := false, exceptional := false, intervention := false, incorrectLength := false }
    status := none }

/-- R464: one word of a Read moves into storage and the counters step. -/
theorem test_channel_read_word :
    leaves (at100 [] fun s =>
        { s.setChannel .a { s.channel .a with
            wc := 2, da := 0o4000, inhibit := true
            phase := .transmit ⟨.read, 2, noFlags, 0⟩ false false } with
          script := [.turn (.channel .a (reply 0o123))] })
      (fun t => t.load 0o4000 == some 0o123 && (t.channel .a).wc == 1 && (t.channel .a).da == 0o4001) = true := by
  decide

/-- K3: Control Immediate completes without a data control word. -/
theorem test_channel_control_immediate :
    leaves (at100 [] fun s =>
        { s.setChannel .a { s.channel .a with phase := .decode none 0o700301000000 } with
          script := [.turn (.channel .a (reply 0))] })
      (fun t => (t.channel .a).phase == .complete ⟨.control, 3, { noFlags with immediate := true }, 0⟩) = true := by
  decide

/-! ## Witnesses: for each statement a state and operands that meet its hypotheses, clause by clause -/

/-- The state after reset with these words of storage. -/
def holding (m : Memory) : State := { State.reset with mem := m }

/-- What most statements ask of a state and an operand part: no turn of another agent falls inside the instruction, and
the effective address is `ea`. -/
def forms (d : Indexing) (o : Operand) (s : State) (ea : Addr) : Prop :=
  s.inside = [] ∧ effectiveAddress d o s = .ok ea

/-- Without modification the effective address is the address field. -/
theorem plain_address (d : Indexing) (y : Addr) (s : State) : effectiveAddress d (plain y) s = .ok y := by
  cases d <;> simp [effectiveAddress, directAddress, plain]

/-- Single-indexed, Tag 1 does not modify the address. -/
theorem tag_address (t : BitVec 4) (y : Addr) (s : State) : effectiveAddress .single (tag t y) s = .ok y := by
  simp [effectiveAddress, directAddress, tag]

theorem plain_forms (d : Indexing) (y : Addr) (s : State) (h : s.inside = [] := by rfl) : forms d (plain y) s y :=
  ⟨h, plain_address d y s⟩

theorem tag_forms (t : BitVec 4) (y : Addr) (s : State) (h : s.inside = [] := by rfl) : forms .single (tag t y) s y :=
  ⟨h, tag_address t y s⟩

theorem witness_EncodedInstructionsDecode :
    (Instr.clm (plain 0)).isCpu = true ∧ (Instr.clm (plain 0)).selectedBy 0 = true ∧
      (Instr.add (plain 0o777777)).isCpu = true ∧ (Instr.add (plain 0)).selectedBy 0o777777 = true ∧
      (Instr.chTch noFlags 0).isCpu = false := by decide

theorem witness_DecodedWordsEncode :
    decodeCpu 0o770000000144 0o144 = .ok (.mse (plain 0o144)) ∧
      decodeChannel 0o077777000000 = some (.dcwTcw 32767 0) := ⟨rfl, rfl⟩

theorem witness_WellFormedTableWords :
    (Instr.pse (plain 0o166)).wellFormed = true ∧ (Instr.pse (plain 0o166)).isCpu = true ∧
      (operandField (encode (.pse (plain 0o166)))).isPlain = true := by decide

/-- Both scripts; a word outside the 370 groups, with turns inside; one inside the groups, without and with turns; a
channel about to execute a word. -/
theorem witness_StepRunsDecoded :
    (let s := holding [(0, 0o370000000002)];
      s.script = [] ∧ s.halted = false ∧ s.compat = false ∧ s.deliverables = [] ∧
        s.load s.pc = some 0o370000000002 ∧ needsSelector 0o370000000002 = true ∧
        decodeCpu 0o370000000002 2 = .ok (.chs (plain 2)) ∧
        forms .double (operandField 0o370000000002) { s.advance with il := s.pc, pc := s.pc + 1 } 2) ∧
      (let s := { holding [(0, 0o010000000005)] with script := [.cpu 3 [[.attention .a]], .start] };
        s.script = .cpu 3 [[.attention .a]] :: [.start] ∧ s.halted = false ∧ s.compat = false ∧
          s.deliverables = [] ∧ s.load s.pc = some 0o010000000005 ∧ needsSelector 0o010000000005 = false ∧
          decodeCpu 0o010000000005 0 = .ok (.tra (plain 5))) ∧
      effectiveAddress .double (operandField 0o370000000002)
          { holding [(0, 0o370000000002)] with inside := [[.attention .a]] } = .ok 2 ∧
      (operandField 0o370000000002).f = false :=
  ⟨⟨rfl, rfl, rfl, by decide, rfl, rfl, rfl, plain_forms _ 2 _⟩, ⟨rfl, rfl, rfl, by decide, rfl, rfl, rfl⟩,
    plain_address _ 2 _, rfl⟩

theorem witness_StepRunsDecoded_channel :
    let s := { State.reset.setChannel .h { Channel.reset with phase := .decode none 0o740000001000 } with
      script := [.turn (.channel .h (reply 0))] }
    s.script = .turn (.channel .h (reply 0)) :: [] ∧ (s.channel .h).phase = .decode none 0o740000001000 ∧
      decodeChannel 0o740000001000 = some (.chTch noFlags 0o1000) := ⟨rfl, by decide, rfl⟩

/-- A chain of three words through the last word of storage, from either form; a chain to a word without a value. -/
theorem witness_EffectiveAddressForms :
    let s := holding [(5, 0o000400777777), (6, 7), (0o777777, 0o000400000006)]
    let o : Operand := { f := true, t1 := 0, t2 := 0, y := 5 }
    (plain 5).f = false ∧ o.f = true ∧ s.load (o.y - s.x o.t2.toNat) = some 0o000400777777 ∧
      s.load (o.y - s.x o.t1.toNat - s.x o.t2.toNat) = some 0o000400777777 ∧
      effectiveAddress .double (operandField 0o000400777777) s = .ok 7 ∧
      (let p : Operand := { f := true, t1 := 0, t2 := 0, y := 8 };
        s.load (p.y - s.x p.t2.toNat) = none ∧ s.load (p.y - s.x p.t1.toNat - s.x p.t2.toNat) = none) := by decide

/-- A word that names itself with its flag on: its chain is called endless whatever the number of words read. -/
theorem witness_EffectiveAddressForms_endless (n : Nat) : chase n (holding [(5, 0o000400000005)]) 5 = .error .endlessIndirectChain := by
  have h : (holding [(5, 0o000400000005)]).load 5 = some 0o000400000005 := by decide
  have hf : (operandField 0o000400000005).f = true := by decide
  have hn : directAddress .double (operandField 0o000400000005) (holding [(5, 0o000400000005)]) = 5 := by decide
  induction n with
  | zero => rfl
  | succ n ih => rw [chase, h]; dsimp only; rw [hf, hn]; exact ih

theorem witness_AccessLaws : (1 ≤ 1 ∧ 1 ≤ 15) ∧ (1 ≤ 15 ∧ 15 ≤ 15) := by decide

theorem witness_StepKeepsStorageCanonical :
    (holding [(0, 0o300000000000)]).wf = true ∧
      leaves (holding [(0, 0o300000000000)]) (fun t => t.load 0 == some 0) = true := by decide

/-- Problem Program Mode with the bounds at block 1 alone, for the words at 0o400 to 0o777. -/
def bounded (m : Memory) : State := { holding m with problem := true, lpr := 1, hpr := 1 }

/-- Both edges of the bounds, both modes, and bounds that admit nothing. -/
theorem witness_ProtectionVerdict :
    (bounded []).violates 0o400 = false ∧ (bounded []).violates 0o777 = false ∧
      (bounded []).violates 0o377 = true ∧ (bounded []).violates 0o1000 = true ∧ State.reset.problem = false ∧
      (let s := { State.reset with lpr := 1 }; s.hpr.toNat < s.lpr.toNat) := by decide

/-- Monitor Mode outside the bounds; Problem Program Mode at both edges. -/
theorem witness_ActualViolation :
    ({ bounded [] with problem := false } : State).problem = false ∧ (bounded []).inside = [] ∧
      (bounded []).problem = true ∧ (bounded []).outsideBounds 0o400 = false ∧
      (bounded []).outsideBounds 0o777 = false ∧ (bounded []).outsideBounds 0o377 = true ∧
      (bounded []).outsideBounds 0o1000 = true := by decide

/-- The words of a double load at the end of storage. -/
theorem witness_Loads :
    let s := holding [(0, 7), (0o777777, 5)]
    forms .double (plain 0o777777) s 0o777777 ∧ s.load 0o777777 = some 5 ∧
      s.load (0o777777 + 1) = some 7 := ⟨plain_forms _ _ _, by decide, by decide⟩

/-- The last word inside the bounds, and the last two. -/
theorem witness_WordStores :
    (forms .double (plain 0o777) (bounded []) 0o777 ∧ (bounded []).violates 0o777 = false) ∧
      forms .double (plain 0o776) (bounded []) 0o776 ∧ (bounded []).violates 0o776 = false ∧
      (bounded []).violates (0o776 + 1) = false :=
  ⟨⟨plain_forms _ _ _, by decide⟩, plain_forms _ _ _, by decide, by decide⟩

theorem witness_FieldStores :
    let s := bounded [(0o400, 5)]
    s.load 0o400 = some 5 ∧ s.violates 0o400 = false ∧ forms .double (plain 0o400) s 0o400 ∧
      forms .single (tag 15 0o400) s 0o400 :=
  ⟨by decide, by decide, plain_forms _ _ _, tag_forms _ _ _⟩

/-- A first word outside, at either edge; the second of two words; the first, second and third word of a block. -/
theorem witness_StoresTrapOutsideBounds :
    let s := bounded [(0o377, 5), (0o776, 5), (0o777, 5), (0o1000, 5)]
    (forms .double (plain 0o377) s 0o377 ∧ s.violates 0o377 = true ∧ s.load 0o377 = some 5) ∧
      (forms .double (plain 0o777) s 0o777 ∧ s.violates 0o777 = false ∧ s.violates (0o777 + 1) = true) ∧
      (forms .single (tag 15 0o1000) s 0o1000 ∧ s.violates 0o1000 = true ∧ s.load 0o1000 = some 5 ∧
        s.violates (0o1000 + BitVec.ofNat 18 0) = true ∧ (tag 15 0o1000).t1 ≠ 0) ∧
      (forms .single (tag 1 0o777) s 0o777 ∧ s.violates (0o777 + BitVec.ofNat 18 1) = true ∧
        (∀ k, k < 1 → s.violates (0o777 + BitVec.ofNat 18 k) = false) ∧ 1 < 2 + (tag 1 0o777).t1.toNat / 2) ∧
      (forms .single (tag 15 0o776) s 0o776 ∧ s.load 0o776 = some 5 ∧ s.violates (0o776 + BitVec.ofNat 18 2) = true ∧
        (∀ k, k < 2 → s.violates (0o776 + BitVec.ofNat 18 k) = false) ∧ 2 < 1 + (tag 15 0o776).t1.toNat / 2) :=
  ⟨⟨plain_forms _ _ _, by decide, by decide⟩, ⟨plain_forms _ _ _, by decide, by decide⟩,
    ⟨tag_forms _ _ _, by decide, by decide, by decide, by decide⟩,
    ⟨tag_forms _ _ _, by decide, by decide, by decide⟩, tag_forms _ _ _, by decide, by decide, by decide, by decide⟩

/-- Counts zero, one and fifteen. -/
theorem witness_BlockStores :
    let s := bounded [(0o400, 5)]
    (∀ t, forms .single (tag t 0o400) s 0o400) ∧ s.load 0o400 = some 5 ∧
      (tag 0 0o400).t1 = 0 ∧ (tag 1 0o400).t1 ≠ 0 ∧ (tag 15 0o400).t1 ≠ 0 ∧
      ∀ k, k < 2 + (15 : BitVec 4).toNat / 2 → s.violates (0o400 + BitVec.ofNat 18 k) = false :=
  ⟨fun _ => tag_forms _ _ _, by decide, by decide, by decide, by decide, by decide⟩

/-- A block of two and of three words. -/
theorem witness_BlockLoads :
    let s := holding [(0o200, 1), (0o201, 2), (0o202, 3)]
    (∀ t, forms .single (tag t 0o200) s 0o200) ∧
      (∀ k, k < 3 → s.load (0o200 + BitVec.ofNat 18 k) = ([1, 2, 3] : List Word)[k]?) ∧
      (∀ k, k < 2 → s.load (0o200 + BitVec.ofNat 18 k) = ([1, 2] : List Word)[k]?) ∧
      [(3 : Word)].length = (tag 3 0o200).t1.toNat / 2 ∧ ([] : List Word).length = (tag 1 0o200).t1.toNat / 2 ∧
      (tag 0 0o200).t1 = 0 ∧ (tag 1 0o200).t1 ≠ 0 :=
  ⟨fun _ => tag_forms _ _ _, by decide, by decide, by decide, by decide, by decide, by decide⟩

/-- Both cases of the signs, both cases of the round bit. -/
theorem witness_Additions :
    let s := { holding [(5, 0o400000000001)] with mq := 0o200000000000 }
    forms .double (plain 5) s 5 ∧ s.load 5 = some 0o400000000001 ∧ position s.mq 1 = true ∧
      position State.reset.mq 1 = false ∧ s.ac.s ≠ signOf 0o400000000001 ∧ s.ac.s = !signOf 0o400000000001 ∧
      s.ac.m.toNat < (magnitude 0o400000000001).toNat := by
  refine ⟨plain_forms _ _ _, ?_⟩; decide

/-- Operands whose integer product is exactly 2^35 and one less than that allows. -/
theorem witness_Multiplication :
    let s := { holding [(5, 2)] with ac := { s := false, m := 0o200000000000 } }
    forms .double (plain 5) s 5 ∧ s.load 5 = some 2 ∧ s.ac.q = false ∧ s.ac.p = false ∧
      2 ^ 35 ≤ s.ac.mag.toNat * (magnitude 2).toNat := by
  refine ⟨plain_forms _ _ _, ?_⟩; decide

theorem witness_VariableMultiplyAndDivide :
    let s := { holding [(5, 2)] with ac := { s := false, m := 1 } }
    (∀ t, forms .single (tag t 5) s 5) ∧ s.load 5 = some 2 ∧ (tag 0 5).t1 = 0 ∧ (tag 15 5).t1 ≠ 0 ∧
      s.ac.m.toNat < (magnitude 2).toNat :=
  ⟨fun _ => tag_forms _ _ _, by decide, by decide, by decide, by decide⟩

/-- A divisor one above the accumulator, and a divisor that is not zero. -/
theorem witness_Division :
    let s := { holding [(5, 2)] with ac := { s := false, m := 1 } }
    forms .double (plain 5) s 5 ∧ s.load 5 = some 2 ∧ s.ac.m.toNat < (magnitude 2).toNat ∧
      s.ac.q = false ∧ s.ac.p = false ∧ magnitude 2 ≠ 0 := by
  refine ⟨plain_forms _ _ _, ?_⟩; decide

/-- A divisor equal to the accumulator, a zero divisor, and a floating-point divide by zero. -/
theorem witness_DivideChecksTrap :
    let s := { holding [(5, 2), (6, 0)] with ac := { s := false, m := 2 } }
    (s.load 5 = some 2 ∧ (magnitude 2).toNat ≤ s.ac.m.toNat ∧ (tag 1 5).t1 ≠ 0) ∧
      (s.load 6 = some 0 ∧ magnitude 0 = 0 ∧ s.ac.q = false ∧ s.ac.p = false ∧ (Config.numerics.fdiv s.ac 0).divCheck = true) ∧
      (let u := holding [(5, 2)];
        u.load 5 = some 2 ∧ u.ac.q = false ∧ u.ac.p = false ∧
          (Config.numerics.fdiv (Acc.ofSigned 2) u.ac.signedWord).divCheck = true) := by decide

theorem witness_DivideChecksTrap_address (s : State) (h : s.inside = []) :
    forms .double (plain 5) s 5 ∧ forms .double (plain 6) s 6 ∧ forms .single (tag 1 5) s 5 :=
  ⟨plain_forms _ _ _ h, plain_forms _ _ _ h, tag_forms _ _ _ h⟩

/-- The values 1.0 in AC, MQ and storage. -/
def ones : State :=
  { holding [(5, 0o201400000000), (6, 0)] with ac := { s := false, m := 0o201400000000 }, mq := 0o201400000000 }

theorem witness_SingleFloatingCompletes :
    (forms .double (plain 5) ones 5 ∧ ones.load 5 = some 0o201400000000) ∧
      (singleFloating (plain 5) ones 0o201400000000).all (fun p => !p.2.divCheck && !spillAny p.2.sp) = true ∧
      spillAny (Config.numerics.fround ones.ac ones.mq).2 = false ∧ ones.ac.q = false ∧ ones.ac.p = false ∧
      (Config.numerics.fdiv (Acc.ofSigned 0o201400000000) ones.ac.signedWord).divCheck = false ∧
      spillAny (Config.numerics.fdiv (Acc.ofSigned 0o201400000000) ones.ac.signedWord).sp = false := by
  refine ⟨⟨plain_forms _ _ _, ?_⟩, ?_⟩ <;> decide

theorem witness_DoubleFloatingOutcomes :
    forms .double (plain 5) ones 5 ∧ ones.load 5 = some 0o201400000000 ∧
      ones.load (5 + 1) = some 0 := ⟨plain_forms _ _ _, by decide, by decide⟩

/-- The largest numbers, whose sum and product overflow. -/
def extremes : State :=
  { holding [(5, 0o377777777777)] with ac := { s := false, m := 0o377777777777 }, mq := 0o377777777777 }

/-- A sum that overflows, a quotient that underflows, and exactly 2^35 for FIX. -/
theorem witness_SpillsTrap :
    (forms .double (plain 5) extremes 5 ∧ extremes.load 5 = some 0o377777777777) ∧
      ((singleFloating (plain 5) extremes 0o377777777777).any fun p => !p.2.divCheck && spillAny p.2.sp) = true ∧
      spillAny (Config.numerics.fround extremes.ac extremes.mq).2 = true ∧ scaledValue 0o244400000000 = 2 ^ 35 * 2 ^ 155 ∧
      (let s := { holding [(5, 0o001400000000)] with ac := { s := false, m := 0o377400000000 } };
        s.load 5 = some 0o001400000000 ∧ s.ac.q = false ∧ s.ac.p = false ∧
          (Config.numerics.fdiv (Acc.ofSigned 0o001400000000) s.ac.signedWord).divCheck = false ∧
          spillAny (Config.numerics.fdiv (Acc.ofSigned 0o001400000000) s.ac.signedWord).sp = true) := by
  refine ⟨⟨plain_forms _ _ _, ?_⟩, ?_⟩ <;> decide

/-- Sums: of unlike numbers that cancel, with a carry, and with AC's the larger characteristic; products at the edges of
normalization; a fraction that rounding carries out of; dividend fractions equal to the divisor's, smaller and zero. -/
theorem witness_FloatingContent :
    (let ac : Acc := { s := true, m := 0o201400000000 };
      ¬ (unpackWord 0o201400000000).ch < (unpackAcc ac).ch ∧
        algebraic true (2 ^ 26 * 2 ^ 27) + algebraic false ((unpackWord 0o201400000000).fr * 2 ^ 27) = 0) ∧
      (let ac : Acc := { s := false, m := 0o201777777777 };
        (algebraic false ((2 ^ 27 - 1) * 2 ^ 27) +
          algebraic ac.s ((unpackWord 0o201777777777).fr * 2 ^ 27)).natAbs ≥ 2 ^ 54) ∧
      (unpackWord 0o200400000000).ch < (unpackAcc { s := false, m := 0o203600000000 }).ch ∧
      (unpackWord 0o200400000000).fr * (unpackWord 0o200777777777).fr < 2 ^ 53 ∧
      2 ^ 26 ≤ (unpackWord 0o200000000001).fr * (unpackWord 0o200400000000).fr ∧ magnitude 0o400000000000 = 0 ∧
      position 0o000400000000 9 = true ∧ position 0 9 = false ∧ (0o201777777777 : Nat) % 2 ^ 27 = 2 ^ 27 - 1 ∧
      (Config.numerics.fdiv { s := false, m := 0o201400000000 } 0o201400000000).divCheck = false ∧
      (Config.numerics.fdiv { s := false, m := 0o201400000000 } 0o201600000000).divCheck = false ∧
      (Config.numerics.fdiv { s := false, m := 0 } 0o201600000000).divCheck = false ∧ (Config.numerics.fdiv { s := false, m := 0 } 0).divCheck = true := by
  decide

/-- Sums of -1, 0, 255 and 256 in the exponent. -/
theorem witness_AddToExponent :
    forms .double (plain 0o777) State.reset 0o777 ∧ exponentSum State.reset.ac 0o777 = -1 ∧
      exponentSum State.reset.ac 0 = 0 ∧ exponentSum State.reset.ac 0o377 = 255 ∧
      exponentSum { s := false, m := 0o001000000000 } 0o377 = 256 := by
  refine ⟨plain_forms _ _ _, ?_⟩; decide

/-- Counts zero and 255. -/
theorem witness_Shifts :
    forms .double (plain 0o400) State.reset 0o400 ∧ 0 = (0o400 : Addr).toNat % 256 ∧
      forms .double (plain 0o777) State.reset 0o777 ∧ 255 = (0o777 : Addr).toNat % 256 :=
  ⟨plain_forms _ _ _, rfl, plain_forms _ _ _, rfl⟩

theorem witness_PlainTransfersComplete :
    forms .double (plain 5) State.reset 5 ∧ State.reset.ttrap = false := ⟨plain_forms _ _ _, rfl⟩

/-- Tag 1 zero, one and another; the store of TSL allowed. -/
theorem witness_WorkingTransfersComplete :
    let s := holding [(5, 7)]
    s.ttrap = false ∧ forms .double (plain 5) s 5 ∧
      (∀ t, forms .single (tag t 5) s 5) ∧ s.load 5 = some 7 ∧ s.violates 5 = false ∧
      (s.setX 1 3).x 1 + (s.setX 1 3).x 2 = 3 :=
  ⟨rfl, plain_forms _ _ _, fun _ => tag_forms _ _ _, by decide, by decide, by decide⟩

theorem witness_TransferTrapMode :
    let s := { holding [(5, 7)] with ttrap := true, ov := true }
    s.ttrap = true ∧ forms .double (plain 5) s 5 ∧
      (∀ t, forms .single (tag t 5) s 5) ∧ s.load 5 = some 7 ∧ s.violates 5 = false :=
  ⟨rfl, plain_forms _ _ _, fun _ => tag_forms _ _ _, by decide, by decide⟩

theorem witness_HaltsModesAndMonitorCall :
    forms .double (plain 5) State.reset 5 ∧
      (let s := { State.reset with halted := true }; s.halted = true ∧ s.script = []) ∧
      (let s := { State.reset with halted := true, script := [.cpu 0 []] }; s.halted = true ∧ s.script = .cpu 0 [] :: []) :=
  ⟨plain_forms _ _ _, ⟨rfl, rfl⟩, rfl, rfl⟩

theorem witness_SkipsAndCompares :
    forms .double (plain 5) (holding [(5, 7)]) 5 ∧ (holding [(5, 7)]).load 5 = some 7 :=
  ⟨plain_forms _ _ _, by decide⟩

/-- Each selector range at both ends, and a selector outside. -/
theorem witness_SenseLightsAndSwitches :
    (∀ y : Addr, forms .double (plain y) State.reset y) ∧ (0o140 : Addr).toNat = 0o140 ∧
      (0o141 : Addr).toNat = 0o140 + 1 ∧ (0o144 : Addr).toNat = 0o140 + 4 ∧ (0o161 : Addr).toNat = 0o160 + 1 ∧
      (0o166 : Addr).toNat = 0o160 + 6 ∧ State.reset.lights.getLsbD 3 = false ∧
      ({ State.reset with lights := 8 } : State).lights.getLsbD (4 - 1) = true ∧
      (Instr.pse (plain 0o145)).selectedBy 0o145 = false ∧ (Instr.mse (plain 0o140)).selectedBy 0o140 = false :=
  ⟨fun _ => plain_forms _ _ _, rfl, rfl, rfl, rfl, rfl, rfl, rfl, by decide, by decide⟩

theorem witness_SkipsAndCompares_compares :
    forms .double (plain 5) (holding [(5, 0o400000000000)]) 5 ∧
      (holding [(5, 0o400000000000)]).load 5 = some 0o400000000000 ∧
      algebraic false 0 = algebraic (signOf 0o400000000000) (magnitude 0o400000000000).toNat := by
  refine ⟨plain_forms _ _ _, ?_⟩; decide

theorem witness_MonitorInstructions :
    forms .double (plain 5) (holding [(5, 0o777777777777)]) 5 ∧
      (holding [(5, 0o777777777777)]).load 5 = some 0o777777777777 ∧ State.reset.problem = false :=
  ⟨plain_forms _ _ _, by decide, rfl⟩

/-- The select words of the special channel and of channel H. -/
theorem witness_RestrictedInstructionsTrap :
    let s := { holding [(5, 0o200000000000), (6, 0o000400000000)] with problem := true }
    (forms .double (plain 5) s 5 ∧ forms .double (plain 6) s 6) ∧
      s.problem = true ∧ s.load 5 = some 0o200000000000 ∧ s.load 6 = some 0o000400000000 ∧
      selected 0o200000000000 = [.special] ∧ selected 0o000400000000 = [.h] ∧
      maskBit s.car .special = false ∧ maskBit s.car .h = false ∧
      position 0o000400000000 (1 + (channelIndex .h).val) = true := by
  refine ⟨⟨plain_forms _ _ _, plain_forms _ _ _⟩, ?_⟩; decide

/-- The three clauses: a readable status word, a readable CPU status location with a trap pending, and the state a
trap leaves. -/
theorem witness_ReturnsFromTraps :
    (forms .double (plain 5) (holding [(5, 0o700000000123)]) 5 ∧
        State.reset.problem = false ∧ (holding [(5, 0o700000000123)]).load 5 = some 0o700000000123) ∧
      (let s := { State.reset.setChannel .h { Channel.reset with pendingEnd := true } with ictMask := 0 };
        (s.poke Config.statusLocation 7).load Config.statusLocation = some 7 ∧ ChannelId.h ≠ .special ∧
          ((s.poke Config.statusLocation 7).channel .h).pending .ending = true ∧
          maskBit (s.poke Config.statusLocation 7).ictMask .h = false ∧
          (s.poke Config.statusLocation 7).problem = false ∧ (s.poke Config.statusLocation 7).inside = []) ∧
      let s := takeTrap .illegalOperation (bounded [])
      s.problem = false ∧
        forms .double (plain (locationAddress CpuTrap.illegalOperation.save)) s
          (locationAddress CpuTrap.illegalOperation.save) :=
  ⟨⟨plain_forms _ _ _, rfl, by decide⟩,
    ⟨State.load_poke_same _ _ _, by decide, by rw [State.poke_channel]; decide, by decide, rfl, rfl⟩, rfl,
    plain_forms _ _ _⟩

theorem witness_ChannelTrapReturn :
    let s := (State.reset.setChannel .h { Channel.reset with pendingEnd := true }).poke Config.statusLocation
      (joinHalves (packModes false true false) 0o500)
    s.inside = [] ∧ s.problem = false ∧ (∀ y, forms .double (plain y) s y) ∧
      s.load Config.statusLocation = some (joinHalves (packModes false true false) 0o500) ∧ ChannelId.h ≠ .special ∧
      (s.channel .h).pending .ending = true ∧ maskBit { s with ictMask := 0 }.ictMask .h = false :=
  ⟨rfl, rfl, fun _ => plain_forms _ _ _, State.load_poke_same _ _ _, by decide,
    by rw [State.poke_channel]; decide, by decide⟩

/-- An entry of each kind, one of them with a turn between its stores. -/
theorem witness_TrapsEnterMonitor :
    (∃ t, raise .divideCheck { bounded [] with inside := [[], [.attention .a]] } = .next t) ∧
      ∃ t, raiseChannelTrap .h .ending (bounded []) = .next t := ⟨⟨_, rfl⟩, ⟨_, rfl⟩⟩

theorem witness_TrapEntry : (CpuTrap.monitorCall 5 ≠ .transfer) ∧ (∀ op x, CpuTrap.monitorCall 5 ≠ .ioInCompatibleMode op x) :=
  ⟨by decide, fun _ _ h => by cases h⟩

/-- An object that is a transfer, one that is in a 370 group, a chain of two XECs ending in NOP, and an XEC of
itself. -/
theorem witness_ExecuteRunsItsObject :
    let s := holding
      [(5, 0o010000000007), (6, 0o370000000002), (7, 0o371000000000), (8, 0o252000000007), (9, 0o252000000011)]
    (s.load 5 = some 0o010000000007 ∧ needsSelector 0o010000000007 = false ∧
        decodeCpu 0o010000000007 0 = .ok (.tra (plain 7)) ∧ (∀ o', Instr.tra (plain 7) ≠ .xec o')) ∧
      (s.load 6 = some 0o370000000002 ∧ forms .double (operandField 0o370000000002) s 2 ∧
        decodeCpu 0o370000000002 2 = .ok (.chs (plain 2))) ∧
      (s.load 7 = some 0o371000000000 ∧ operationField 0o371000000000 = 0o371 ∧
        forms .double (operandField 0o371000000000) s 0 ∧
        s.load 8 = some (assemble 0o252 (plain 7))) ∧
      (forms .double (plain 9) s 9 ∧ s.load 9 = some (assemble 0o252 (plain 9))) :=
  ⟨⟨by decide, by decide, rfl, fun _ h => by cases h⟩, ⟨by decide, plain_forms _ 2 _, rfl⟩,
    ⟨by decide, by decide, plain_forms _ 0 _, by decide⟩, plain_forms _ _ _, by decide⟩

/-- A chain of XEC, word by word: `a` holds `w`, which decodes to `i`. -/
theorem comesTo_object {s u : State} {a : Addr} {j : Instr} (w : Word) (i : Instr) (hq : s.inside = []) (hw : s.load a = some w)
    (hn : needsSelector w = false) (hd : decodeCpu w 0 = .ok i) (h : ComesTo s i u j) :
    ComesTo s (.xec (plain a)) u j := by
  have ha : Addresses .double (plain a) s (directAddress .double (plain a) s) s := .direct rfl
  have he : directAddress .double (plain a) s = a := by simp [directAddress, plain]
  rw [he] at ha
  exact .object ha ⟨by rw [BeforeAccess, hq], hw⟩ (.plain hn hd) h

/-- Two XECs come to a NOP. -/
theorem witness_ExecuteRunsItsObject_chain :
    let s := holding [(7, 0o371000000000), (8, 0o252000000007)]
    s.inside = [] ∧ ComesTo s (.xec (plain 8)) s (.nop (plain 0)) :=
  ⟨rfl, comesTo_object 0o252000000007 (.xec (plain 7)) rfl (by decide) rfl rfl <|
    comesTo_object 0o371000000000 (.nop (plain 0)) rfl (by decide) rfl rfl <| .here fun _ h => by cases h⟩

/-- Tags zero and fifteen. -/
theorem witness_IndexLoads :
    (∀ t, forms .single (tag t 5) (holding [(5, 0o400000000003)]) 5) ∧
      (holding [(5, 0o400000000003)]).load 5 = some 0o400000000003 := ⟨fun _ => tag_forms _ _ _, by decide⟩

/-- Both pairs of instructions, tag zero and another, at a sum of exactly 2^18 and one on each side. -/
theorem witness_IndexArithmeticAndCompares :
    let s := (holding [(1, 1), (2, 2)]).setX 15 0o777777
    (∀ t y, forms .single (tag t y) s y) ∧ (tag 0 1).t1 = 0 ∧ (tag 15 1).t1 ≠ 0 ∧
      0o777777 = s.x (tag 15 1).t1.toNat ∧ (s.load 1).map rightHalf = some 1 ∧
      (s.load 2).map rightHalf = some 2 ∧ (0o777777 : Addr).toNat + (1 : Addr).toNat = 2 ^ 18 ∧
      2 ^ 18 < (0o777777 : Addr).toNat + (2 : Addr).toNat ∧ (0o777777 : Addr).toNat + (0 : Addr).toNat < 2 ^ 18 :=
  ⟨fun _ _ => tag_forms _ _ _, by decide, by decide, by decide, by decide, by decide, by decide, by decide, by decide⟩

/-- Tags zero and fifteen; an operand above the register, equal to it and below it. -/
theorem witness_IndexArithmeticAndCompares_compares :
    let s := (holding [(5, 7)]).setX 15 7
    (∀ t y, forms .single (tag t y) s y) ∧ s.load 5 = some 7 ∧ (tag 0 5).t1 = 0 ∧ s.x (tag 15 5).t1.toNat = 7 ∧
      (6 : Addr).toNat < (7 : Addr).toNat ∧ (7 : Addr).toNat < (8 : Addr).toNat :=
  ⟨fun _ _ => tag_forms _ _ _, by decide, by decide, by decide, by decide, by decide⟩

theorem witness_AccumulatorOperations :
    forms .double (plain 5) (holding [(5, 7)]) 5 ∧ (holding [(5, 7)]).load 5 = some 7 :=
  ⟨plain_forms _ _ _, by decide⟩

theorem witness_SenseIndicatorChanges :
    forms .double (plain 5) (holding [(5, 7)]) 5 ∧ (holding [(5, 7)]).load 5 = some 7 :=
  ⟨plain_forms _ _ _, by decide⟩

/-- The largest magnitude floated exactly, the smallest that is truncated and the largest; the largest number FIX takes;
a normalized whole number with all 35 digits before its point. -/
theorem witness_FixAndFloat :
    let s := holding [(5, 0o000777777777), (6, 0o243777777777)]
    (forms .double (plain 5) s 5 ∧ forms .double (plain 6) s 6) ∧
      s.load 5 = some 0o000777777777 ∧ s.load 6 = some 0o243777777777 ∧
      (magnitude 0o000777777777).toNat < 2 ^ 27 ∧ magnitude 0o000777777777 ≠ 0 ∧ magnitude 0o400000000000 = 0 ∧
      (2 ^ (26 + 1) ≤ (magnitude 0o001000000001).toNat ∧ (magnitude 0o001000000001).toNat < 2 ^ (27 + 1)) ∧
      (2 ^ (26 + 8) ≤ (magnitude 0o377777777777).toNat ∧ (magnitude 0o377777777777).toNat < 2 ^ (27 + 8)) ∧
      scaledValue 0o243777777777 < 2 ^ 35 * 2 ^ 155 ∧ scaledValue 0o243777777777 % 2 ^ 155 = 0 ∧
      2 ^ 26 ≤ (magnitude 0o243777777777).toNat % 2 ^ 27 := by
  refine ⟨⟨plain_forms _ _ _, plain_forms _ _ _⟩, ?_⟩; decide

/-- Tags zero, one and two. -/
theorem witness_IndexShifts :
    let s := State.reset.setX 2 0o44
    (∀ t, forms .single (tag t 9) s 9) ∧ 0o44 = s.x (tag 2 9).t1.toNat ∧ (tag 1 9).t1 = 1 ∧
      (tag 2 9).t1 ≠ 1 ∧ (tag 0 9).t1 ≠ 1 ∧ 9 = min (9 : Addr).toNat (0o44 : Addr).toNat :=
  ⟨fun _ => tag_forms _ _ _, by decide, by decide, by decide, by decide, by decide⟩

/-- P set, Q set; a word of no operation and one of no selector, in a state that fetches it. -/
theorem witness_RefusedInstructions :
    (forms .double (plain 5) State.reset 5 ∧
        Acc.p { s := false, m := 0o400000000000 } = true ∧ Acc.q { s := false, m := 0o1000000000000 } = true) ∧
      (let s := holding [(0, 0o001000000000)];
        s.script = [] ∧ s.halted = false ∧ s.compat = false ∧ s.deliverables = [] ∧
          s.load s.pc = some 0o001000000000 ∧ needsSelector 0o001000000000 = false ∧
          decodeCpu 0o001000000000 0 = .error .unassignedOperation) ∧
      (let s := holding [(0, 0o370000000005)];
        s.script = [] ∧ s.halted = false ∧ s.compat = false ∧ s.deliverables = [] ∧
          s.load s.pc = some 0o370000000005 ∧
          effectiveAddress .double (operandField 0o370000000005) { s.advance with il := s.pc, pc := s.pc + 1 } =
            .ok 5 ∧
          decodeCpu 0o370000000005 5 = .error .unassignedSelector) :=
  ⟨⟨plain_forms _ _ _, by decide, by decide⟩, ⟨rfl, rfl, rfl, by decide, by decide, by decide, rfl⟩, rfl, rfl, rfl,
    by decide, by decide, plain_address _ 5 _, rfl⟩

/-- One channel, the special channel, no channel and two; busy and idle; Problem Program Mode with the channel
assigned. -/
theorem witness_StartChannel :
    let s := { holding [(4, 0o140000000000), (5, 0o100000001000), (6, 0o200000001000), (0o1000, 0)] with
      problem := true, car := 0o600 }
    (∀ y, forms .double (plain y) s y) ∧ s.load 4 = some 0o140000000000 ∧
      (∀ ch, selected 0o140000000000 ≠ [ch]) ∧ s.load 5 = some 0o100000001000 ∧
      selected 0o100000001000 = [.a] ∧ maskBit s.car .a = true ∧ (s.channel .a).busy = false ∧
      s.load (rightHalf 0o100000001000) = some 0 ∧ s.load 6 = some 0o200000001000 ∧
      selected 0o200000001000 = [.special] ∧ maskBit s.car .special = true ∧ (s.channel .special).busy = false ∧
      ((s.setChannel .special { Channel.reset with phase := .fetch none }).channel .special).busy = true ∧
      ((s.setChannel .a { Channel.reset with phase := .environment }).channel .a).busy = true :=
  ⟨fun _ => plain_forms _ _ _, by decide, by intro ch; cases ch <;> decide, by decide, by decide, by decide,
    by decide, by decide, by decide, by decide, by decide, by decide, by decide, by decide⟩

/-- Stores of CHT and SCH inside the bounds, the first outside, the second outside, both outside; a channel A to H and
the special channel; a busy channel. -/
theorem witness_TestStoreAndHaltChannel :
    let s := bounded [(5, 0o100000000776), (6, 0o100000001000), (7, 0o377400000000), (8, 0o100000000777),
      (9, 0o100000000377), (10, 0o200000000776)]
    (∀ y, forms .double (plain y) s y) ∧ s.load 5 = some 0o100000000776 ∧
      s.load 6 = some 0o100000001000 ∧ s.load 7 = some 0o377400000000 ∧ s.load 8 = some 0o100000000777 ∧
      s.load 9 = some 0o100000000377 ∧ s.load 10 = some 0o200000000776 ∧ selected 0o100000000776 = [.a] ∧
      selected 0o100000001000 = [.a] ∧ selected 0o200000000776 = [.special] ∧
      ({ s with car := 0o777 } : State).problem = true ∧
      (∀ ch, maskBit ({ s with car := 0o777 } : State).car ch = true) ∧
      (s.channelViolates false 0o776 = false ∧ s.channelViolates false (0o776 + 1) = false) ∧
      (s.channelViolates false 0o777 = false ∧ s.channelViolates false (0o777 + 1) = true) ∧
      (s.channelViolates false 0o377 = true ∧ s.channelViolates false (0o377 + 1) = false) ∧
      (s.channelViolates false 0o1000 = true ∧ s.channelViolates false (0o1000 + 1) = true) ∧
      ((s.setChannel .a { Channel.reset with phase := .environment }).channel .a).busy = true :=
  ⟨fun _ => plain_forms _ _ _, by decide, by decide, by decide, by decide, by decide, by decide, by decide, by decide,
    by decide, rfl, by intro ch; cases ch <;> decide, by decide, by decide, by decide, by decide, by decide⟩

/-- A channel at a command, at an XEC's object, and at a data control word; the flag off and on; both signs of an
indirect word. -/
theorem witness_ChannelWordsExecuted :
    let s := { (holding [(5, 6), (6, 7), (7, 0o400000000000)]).setChannel .a
      { Channel.reset with phase := .decode none 0 } with acting := .a }
    let u := { s.setChannel .a { Channel.reset with phase := .decode (some ⟨.read, 2, noFlags, 0⟩) 0 } with acting := .a }
    (s.channel s.acting).phase.current = none ∧ s.load 6 = some 7 ∧ (s.load 5).map rightHalf = some 6 ∧
      { s.channel s.acting with phase := .object 6 }.phase = .object 6 ∧
      (u.channel u.acting).phase.current = some ⟨.read, 2, noFlags, 0⟩ ∧ u.load 6 = some 7 ∧ signOf 7 = false ∧
      u.load 7 = some 0o400000000000 ∧ signOf 0o400000000000 = true := by decide

/-- A transmission with the count at zero and above, at the last address inside the bounds and the first outside; a
command complete with and without a halt request, with and without an unusual condition. -/
theorem witness_ChannelTransmission :
    let cmd : Command := ⟨.read, 2, noFlags, 0⟩
    let c : Channel := { Channel.reset with wc := 1, da := 0o377, phase := .transmit cmd true false }
    let s := { (holding [(0o377, 5)]).setChannel .a c with acting := .a }
    s.channel s.acting = c ∧ c.phase = .transmit cmd true false ∧ (reply 0).endSignal = false ∧
      c.wc ≠ 0 ∧ { c with wc := 0 }.wc = 0 ∧ cmd.operation = .read ∧
      { cmd with operation := .write }.operation = .write ∧
      s.channelViolates c.inhibit c.da = false ∧ s.channelViolates c.inhibit 0o400 = true ∧ s.load c.da = some 5 ∧
      { c with phase := .complete cmd }.phase = .complete cmd ∧ (reply 0).conditions.any = false ∧
      { (reply 0).conditions with dataError := true }.any = true ∧
      { (reply 0).conditions with incorrectLength := true }.any = true ∧ cmd.flags.advance = false ∧
      { c with haltRequest := true }.haltRequest = true ∧
      { c with phase := .fetch none }.phase = .fetch none ∧ s.load 0o377 = some 5 ∧
      decodeChannel 0o100000000000 = none ∧ isCommand 0o100000000000 = false ∧
      decodeChannel 0o740200000000 = none ∧ isCommand 0o740200000000 = true := by decide

/-- A transmission with and without an end signal, the chain bit on and off; a complete command with the Advance flag on
and off; a data control word met while a command is wanted. -/
theorem witness_ChainingAndAdvance :
    let cmd : Command := ⟨.read, 2, noFlags, 0⟩
    let c : Channel := { Channel.reset with wc := 1, da := 0o377, enb := 0o40, phase := .transmit cmd true false }
    let s := { State.reset.setChannel .a c with acting := .a }
    s.channel s.acting = c ∧ { reply 0 with endSignal := true }.endSignal = true ∧ (reply 0).endSignal = false ∧
      c.wc ≠ 0 ∧ { c with wc := 0 }.wc = 0 ∧ c.enabled .chain = true ∧
      (∃ t, channelStep (reply 5) s = .next t) ∧ (reply 0).conditions.any = false ∧
      { (reply 0).conditions with exceptional := true }.any = true ∧ cmd.flags.advance = false ∧
      { noFlags with advance := true }.advance = true ∧ c.haltRequest = false ∧ isCommand 0o400012004000 = false ∧
      decodeChannel 0o400012004000 = some (.dcwCcw 10 0o4000) :=
  ⟨by decide, rfl, rfl, by decide, rfl, by decide, ⟨_, rfl⟩, rfl, rfl, rfl, rfl, rfl, by decide, rfl⟩

theorem witness_ChannelsLeaveTheProcessor :
    let s := { State.reset.setChannel .a { Channel.reset with phase := .decode none 0o700301000000 } with
      script := [.turn (.channel .a (reply 0))] }
    s.script = .turn (.channel .a (reply 0)) :: [] ∧ leaves s (fun _ => true) = true ∧ (s.channel .a).inhibit = false ∧
      s.outsideBounds 0o400 = true := ⟨rfl, by decide, by decide, by decide⟩

/-- Two traps deliverable, either chosen; then the status word is CTR's. -/
theorem witness_ChannelTrapTaken :
    let s := { State.reset.setChannel .h { Channel.reset with pendingEnd := true, pendingAttention := true } with
      ictMask := 0, script := [.cpu 1 []] }
    (s.script = .cpu 1 [] :: [] ∧ s.halted = false ∧ s.advance.chooseTrap 1 = some (.h, .attention) ∧
        s.advance.chooseTrap 0 = some (.h, .ending)) ∧
      (∀ t : State, effectiveAddress .double (plain 0) t = .ok 0) ∧
      ({ s with cti := true } : State).cti = true := ⟨⟨rfl, rfl, by decide, by decide⟩, plain_address _ _, rfl⟩

/-- Channel A between two words of a Read into 0o200 and 0o201, protection inhibited. -/
def readingA (m : Memory) : State :=
  (holding m).setChannel .a { Channel.reset with
    wc := 2, da := 0o200, inhibit := true, phase := .transmit ⟨.read, 2, noFlags, 0⟩ false false }

/-- One word before each of two accesses: of two words read, of one read and written, of two stored, of an indirect word
and an operand; and a channel's turn that stops. -/
theorem witness_TurnsBetweenAccesses :
    let first : List Turn := [.channel .a (reply 7)]
    let second : List Turn := [.channel .a (reply 9)]
    let s := { readingA [(0o200, 1), (0o201, 2)] with inside := [first, second] }
    s.inside = [first, second] ∧ (0o200 : Addr) = directAddress .double (plain 0o200) s ∧ (plain 0o200).f = false ∧
      (∃ u, runTurns first { s with inside := [second] } = .next u ∧ u.load 0o200 = some 7 ∧
        u.violates 0o200 = false ∧
        (∃ v, runTurns second { u with inside := [] } = .next v ∧ v.load (0o200 + 1) = some 9 ∧
          v.violates 0o200 = false ∧ v.violates (0o200 + 1) = false) ∧
        (operandField 7).f = false ∧ (operandField 7).y = 7) ∧
      runTurns [.channel .b (reply 0)]
          (State.reset.setChannel .b { Channel.reset with phase := .fetch none }) = .fault .unwrittenStorage :=
  ⟨rfl, rfl, rfl, ⟨_, rfl, by decide, by decide, ⟨_, rfl, by decide, by decide, by decide⟩, by decide, by decide⟩, rfl⟩

/-- R77: a channel's store between the read and the write of ORS is lost. -/
theorem test_ors_loses_a_store_between :
    leaves { readingA [(0o100, 0o702000000200), (0o200, 1)] with
        pc := 0o100, ac := { s := false, m := 4 }, script := [.cpu 0 [[], [.channel .a (reply 7)]]] }
      (fun t => t.load 0o200 == some 5 && (t.channel .a).wc == 1 && t.pc == 0o101) = true := by decide

/-- R77: a double-word load may read two words of different moments. -/
theorem test_dla_reads_two_moments :
    leaves { readingA [(0o100, 0o223000000200), (0o200, 1), (0o201, 2)] with
        pc := 0o100, script := [.cpu 0 [[], [.channel .a (reply 7), .channel .a (reply 9)]]] }
      (fun t => t.ac == { s := false, m := 1 } && t.mq == 9 && t.load 0o200 == some 7) = true := by decide

/-- R77, R106: a channel may change the word an indirect chain is about to read. -/
theorem test_chain_reads_what_a_channel_stored :
    leaves { readingA [(0o100, 0o240400000200), (0o200, 0o300), (0o300, 1), (0o301, 2)] with
        pc := 0o100, script := [.cpu 0 [[.channel .a (reply 0o301)]]] }
      (fun t => t.ac == { s := false, m := 2 } && t.load 0o200 == some 0o301) = true := by decide

/-- R216: the MQ takes the sign of a minus C(Y) whose fraction is zero. -/
theorem test_frd_remainder_sign :
    leaves (at100 [(0o100, 0o335000000200), (0o200, 0o400000000000)]
        fun s => { s with ac := { s := false, m := 0o201400000000 } })
      (fun t => signOf t.mq && t.ac.s && t.pc == 0o101) = true := by decide

/-- R83, R471: a violating CHT store is not made and the channel is handed to the environment. -/
theorem test_cht_violation_hands_over :
    leaves (at100 [(0o100, 0o234000000200), (0o200, 0o100000001000)]
        fun s => s.setChannel .a { s.channel .a with phase := .fetch none })
      (fun t => t.load 0o1000 == none && (t.channel .a).handed && !(t.channel .b).handed) = true := by decide

/-- R442: SCH of the special channel stores two words and hands it to the environment. -/
theorem test_sch_special :
    leaves (at100 [(0o100, 0o235000000200), (0o200, 0o600000001000)])
      (fun t => (t.channel .special).handed && t.pc == 0o101) = true := by decide

/-- R442: STC of the special channel hands it to the environment when it is busy too. -/
theorem test_stc_busy_special :
    leaves (at100 [(0o100, 0o233000000200), (0o200, 0o200000001000)]
        fun s => s.setChannel .special { s.channel .special with phase := .fetch none })
      (fun t => (t.channel .special).handed && (t.channel .special).phase == .fetch none && t.pc == 0o101) = true := by
  decide

/-- R77, R456: an XEC through an indirect word reads one word in a turn, its object in the next. -/
theorem test_channel_xec_two_turns :
    let at_ (m : Memory) (p : Phase) (k : Phase) :=
      leaves { (holding m).setChannel .a { Channel.reset with lc := 9, phase := p } with
          script := [.turn (.channel .a (reply 0))] }
        (fun t => (t.channel .a).phase == k && (t.channel .a).lc == 9)
    (at_ [(5, 6)] (.decode none (encode (.chXec { noFlags with indirect := true } 5))) (.object 6) &&
      at_ [(6, 7)] (.object 6) (.decode none 7) &&
      at_ [(5, 6)] (.decode none (encode (.chXec noFlags 5))) (.decode none 6)) = true := by decide

/-- R468: a condition whose enable bit is zero makes nothing pending: chaining, completion and attention. -/
theorem test_disabled_conditions_pend_nothing :
    let cmd : Command := ⟨.read, 2, noFlags, 0⟩
    let at_ (c : Channel) (t : Turn) := leaves { State.reset.setChannel .a c with script := [.turn t] }
      (fun t => !(t.channel .a).pendingEnd && !(t.channel .a).pendingUnusual && !(t.channel .a).pendingAttention)
    (at_ { Channel.reset with phase := .transmit cmd true false, enb := 0o37 } (.channel .a (reply 0)) &&
      at_ { Channel.reset with phase := .complete cmd, enb := 0o73 } (.channel .a (reply 0)) &&
      at_ { Channel.reset with enb := 0o47 } (.attention .a)) = true := by decide

/-- R467 b: a channel that the environment frees notes the attention that has waited for it. -/
theorem test_resume_idle_notes_waiting_attention :
    leaves { State.reset.setChannel .a { Channel.reset with
          phase := .environment, attentionWaiting := true, enb := 0o10 } with
        script := [.turn (.environment .a (.resume .idle))] }
      (fun t => (t.channel .a).phase == .idle && (t.channel .a).pendingAttention && !(t.channel .a).attentionWaiting) =
      true := by decide

/-- No turn inside; turns inside and no inhibit on; words on either side of the bounds. -/
theorem witness_ProblemModeConfined :
    (bounded []).problem = true ∧ exec (.nop (plain 0)) (bounded []) = .next (bounded []) ∧
      ((bounded []).inside = [] ∧ ∀ ch, ((bounded []).channel ch).inhibit = false) ∧
      (bounded []).outsideBounds 0o377 = true ∧ (bounded []).outsideBounds 0o1000 = true :=
  ⟨rfl, by rw [exec, execNop, withAddress_of_direct rfl], ⟨rfl, by intro ch; cases ch <;> rfl⟩, by decide, by decide⟩

/-- What an instruction run in a state leaves satisfies `k`. -/
def execLeaves (i : Instr) (s : State) (k : State → Bool) : Bool :=
  match exec i s with
  | .next t => k t
  | .fault _ => false
  | .refused _ => false

/-- In Problem Program Mode; and a PTR, and an XEC of an XEC of one, that enter it and Compatible Mode. -/
theorem witness_ModeChanges :
    ((bounded []).problem = true ∧ exec (.nop (plain 0)) (bounded []) = .next (bounded [])) ∧
      (let s := holding [(5, 0o600000000000), (6, 0o723000000005), (7, 0o252000000006)];
        s.problem = false ∧ s.compat = false ∧
          execLeaves (.ptr (plain 5)) s (fun t => t.problem && t.compat) = true ∧
          execLeaves (.xec (plain 7)) s (fun t => t.problem && t.compat) = true ∧
          ComesTo s (.xec (plain 7)) s (.ptr (plain 5))) :=
  ⟨⟨rfl, by rw [exec, execNop, withAddress_of_direct rfl]⟩, rfl, rfl, by decide, by decide,
    comesTo_object 0o252000000006 (.xec (plain 6)) rfl (by decide) rfl rfl <|
      comesTo_object 0o723000000005 (.ptr (plain 5)) rfl (by decide) rfl rfl <| .here fun _ h => by cases h⟩

/-- TNO, and an XEC of a TOV. -/
theorem witness_OverflowStays :
    let s := { holding [(5, 0o060000000007)] with ov := true }
    s.ov = true ∧ execLeaves (.tno (plain 7)) s (fun t => !t.ov) = true ∧
      execLeaves (.xec (plain 5)) s (fun t => !t.ov) = true ∧ ComesTo s (.xec (plain 5)) s (.tov (plain 7)) :=
  ⟨rfl, by decide, by decide,
    comesTo_object 0o060000000007 (.tov (plain 7)) rfl (by decide) rfl rfl <| .here fun _ h => by cases h⟩

/-- Each event; a channel idle, busy, in the environment's hands by its phase and handed over while busy; stores at the
edge of the bounds. -/
theorem witness_OutsideEvents :
    let s := State.reset.setChannel .a { Channel.reset with enb := 0o30 }
    let u := s.setChannel .a { s.channel .a with phase := .environment, attentionWaiting := true }
    let v := s.setChannel .a { s.channel .a with phase := .fetch none, handed := true }
    ({ s with script := [.start] } : State).script = .start :: [] ∧
      ({ s with script := [.turn (.attention .a)] } : State).script = .turn (.attention .a) :: [] ∧
      ({ u with script := [.turn (.environment .a (.resume .idle))] } : State).script =
        .turn (.environment .a (.resume .idle)) :: [] ∧
      (s.channel .a).busy = false ∧ (u.channel .a).busy = true ∧
      ((s.channel .a).phase ≠ .environment ∧ (s.channel .a).handed = false) ∧ (u.channel .a).phase = .environment ∧
      ((v.channel .a).handed = true ∧ (v.channel .a).busy = true) ∧ Phase.fetch none ≠ .idle ∧
      u.channelViolates (u.channel .a).inhibit 0o377 = false ∧
      u.channelViolates (u.channel .a).inhibit 0o400 = true := by decide

end Sys2Proof.Tests
end

section
/-! Storage stays canonical (R45, R70): one lemma for a trap's entry, one for an instruction, one for each kind of
step. What an instruction does to storage is `exec_effect`, what a turn does `turned_runTurn`. -/

namespace Sys2Proof.Machine

/-- Between `s` and `t` canonical storage stays canonical. -/
def KeepsWf (s t : State) : Prop := s.wf = true → t.wf = true

theorem KeepsWf.of_mem {s t : State} (h : t.mem = s.mem) : KeepsWf s t := fun hs => (State.wf_of_mem h).trans hs

theorem KeepsWf.trans {s t u : State} (h : KeepsWf s t) (g : KeepsWf t u) : KeepsWf s u := g ∘ h

theorem Poked.keepsWf_enterAt {as : List Addr} {s u : State} (h : Poked as s u) (a : Addr) :
    KeepsWf s (u.enterAt a) := .trans h.wf (.of_mem rfl)

theorem Effect.keepsWf {s t : State} (h : Effect s t) : KeepsWf s t := by
  cases h with
  | ordinary h => exact h.wf
  | trap c h _ ht =>
    obtain ⟨v, hv, rfl⟩ := ht
    exact .trans h.wf (hv.keepsWf_enterAt _)
  | monitor _ h => exact h

variable {s : State}

theorem exec_keepsWf (i : Instr) : Ensures (exec i s) (KeepsWf s) := (exec_effect s i).mono fun _ => Effect.keepsWf

theorem runTurn_keepsWf (t : Turn) : Ensures (runTurn t s) (KeepsWf s) := (turned_runTurn t).mono fun _ => Turned.wf

theorem withDecoded_keepsWf (w : Word) : Ensures (withDecoded w s exec) (KeepsWf s) :=
  (effect_withDecoded fun i u => exec_effect u i).mono fun _ => Effect.keepsWf

theorem runInstruction_keepsWf : Ensures (runInstruction s) (KeepsWf s) :=
  ensures_readWord fun w _ => (withDecoded_keepsWf w).mono fun _ => .trans (.of_mem rfl)

theorem raiseChannelTrap_keepsWf (ch : ChannelId) (k : TrapKind) : Ensures (raiseChannelTrap ch k s) (KeepsWf s) :=
  ensures_withPokes _ fun _ hu =>
    ensures_next.2 (.trans (.of_mem rfl) (.trans (hu.keepsWf_enterAt (channelTrapAddress ch k)) (.of_mem rfl)))

theorem cpuCycle_keepsWf (pick : Nat) : Ensures (cpuCycle pick s) (KeepsWf s) := by
  refine ensures_ite (fun _ => ensures_next.2 id) fun _ => ?_
  split
  · next ch k _ => exact raiseChannelTrap_keepsWf ch k
  · exact ensures_ite (fun _ => ensures_refused) fun _ => runInstruction_keepsWf

theorem runEvent_keepsWf (e : Event) : Ensures (runEvent e s) (KeepsWf s) := by
  cases e with
  | cpu pick inside => exact cpuCycle_keepsWf pick
  | turn t => exact runTurn_keepsWf t
  | start => exact ensures_next.2 (.of_mem rfl)
  | keys w => exact ensures_next.2 (.of_mem rfl)
  | switches b => exact ensures_next.2 (.of_mem rfl)

theorem step_keepsWf : Ensures (step s) (KeepsWf s) := by
  have hadvance : KeepsWf s s.advance := .of_mem rfl
  unfold step cycle
  split
  · exact (cpuCycle_keepsWf _).mono fun _ => hadvance.trans
  · next e _ _ => exact (runEvent_keepsWf e).mono fun _ => hadvance.trans

/-- Settles O8: what a step can do is what its event can do, for a processor step what its instruction can do, and
each keeps the canonical form. -/
theorem stepKeepsStorageCanonical : Obligations.StepKeepsStorageCanonical := by
  unfold Obligations.StepKeepsStorageCanonical
  exact fun s t hs ht => step_keepsWf t ht hs

end Sys2Proof.Machine
end

section
/-! The overflow trigger stays on (R29): one lemma for each shared operation, one for every instruction that is no XEC,
TOV, TNO or RCPU, and one for the way to the end of an XEC chain. -/

namespace Sys2Proof.Machine

/-! ## What keeps the trigger on -/

/-- Between `s` and `t` the overflow trigger, once on, stays on. -/
def KeepsOv (s t : State) : Prop := s.ov = true → t.ov = true

theorem KeepsOv.of_eq {s t : State} (h : t.ov = s.ov) : KeepsOv s t := fun hs => h.trans hs

theorem KeepsOv.refl (s : State) : KeepsOv s s := .of_eq rfl

theorem KeepsOv.trans {s t u : State} (h : KeepsOv s t) (g : KeepsOv t u) : KeepsOv s u := g ∘ h

theorem KeepsOv.ite {s t u : State} {c : Prop} [Decidable c] (h : KeepsOv s t) (g : KeepsOv s u) :
    KeepsOv s (if c then t else u) := by split <;> assumption

/-- An instruction may turn the trigger on as well: the new value is the old one or a condition of its own. -/
theorem KeepsOv.of_or {s t : State} {b : Bool} (h : t.ov = (s.ov || b)) : KeepsOv s t := fun hs => by simp [h, hs]

theorem Turned.keepsOv {s t : State} (h : Turned s t) : KeepsOv s t := .of_eq (by rw [h.same])

theorem Commanded.keepsOv {s t : State} (h : Commanded s t) : KeepsOv s t := .of_eq (by rw [h.same])

theorem Between.keepsOv {s t : State} (h : Between s t) : KeepsOv s t := .of_eq (by rw [h.same])

theorem Trapped.keepsOv {c : CpuTrap} {s t : State} (h : Trapped c s t) : KeepsOv s t := by
  obtain ⟨u, hu, rfl⟩ := h
  exact .of_eq (by rw [State.enterAt_ov, hu.same])

theorem KeepsOv.addToAc (s : State) (b : Bool) (m : BitVec 35) : KeepsOv s (s.addToAc b m) := .of_or rfl

theorem KeepsOv.roundProduct (s : State) : KeepsOv s (roundProduct s) := .ite (.of_eq rfl) (.refl s)

theorem KeepsOv.integerMultiply (s : State) (w : Word) : KeepsOv s (integerMultiply s w) :=
  .ite (fun _ => rfl) (.of_eq rfl)

theorem KeepsOv.loadPairs (n k : Nat) (l : List Word) (s : State) : KeepsOv s (loadPairs n k l s) := by
  induction l generalizing k s with
  | nil => exact .refl s
  | cons w l ih =>
    have hpair : KeepsOv s (loadPair n k w s) := .ite (.of_eq (by simp)) (.of_eq (by simp))
    exact hpair.trans (ih (k + 1) _)

theorem KeepsOv.thenHandSpecial {s t : State} (w : Word) (h : KeepsOv s t) : KeepsOv s (handSpecial w t) :=
  h.trans (.of_eq (by rw [handSpecial_eq]))

theorem KeepsOv.forChannels {f : ChannelId → State → State} (h : ∀ ch s, KeepsOv s (f ch s)) (l : List ChannelId)
    (s : State) : KeepsOv s (forChannels f l s) := by
  induction l generalizing s with
  | nil => exact .refl s
  | cons ch l ih => exact (h ch s).trans (ih _)

theorem KeepsOv.requestHalt (ch : ChannelId) (s : State) : KeepsOv s (requestHalt ch s) :=
  .ite (.of_eq rfl) (.refl s)

theorem KeepsOv.enableChannel (m : BitVec 6) (ch : ChannelId) (s : State) : KeepsOv s (enableChannel m ch s) :=
  .of_eq rfl

/-! ## Shared operations: what follows an access is judged from the state the access leaves -/

variable {s u : State}

theorem keepsOv_next (h : KeepsOv s u) : Ensures (.next u) (KeepsOv s) := ensures_next.2 h

theorem keepsOv_done (u : State) : Ensures (.next u) (KeepsOv u) := keepsOv_next (.refl u)

theorem keepsOv_raise (c : CpuTrap) (h : KeepsOv s u) : Ensures (raise c u) (KeepsOv s) :=
  ensures_raise fun _ ht => h.trans ht.keepsOv

theorem keepsOv_between {k : State → Result} (h : ∀ u, Ensures (k u) (KeepsOv u)) :
    Ensures (between s k) (KeepsOv s) := ensures_between fun u hu => (h u).mono fun _ => hu.keepsOv.trans

theorem keepsOv_withWord {a : Addr} {k : Word → State → Result} (h : ∀ w u, Ensures (k w u) (KeepsOv u)) :
    Ensures (withWord s a k) (KeepsOv s) := ensures_withWord fun w u hu => (h w u).mono fun _ => hu.keepsOv.trans

theorem keepsOv_withWords {n : Nat} {a : Addr} {k : List Word → State → Result}
    (h : ∀ l u, Ensures (k l u) (KeepsOv u)) : Ensures (withWords s n a k) (KeepsOv s) :=
  ensures_withWords n a fun l u _ hu => (h l u).mono fun _ => hu.keepsOv.trans

theorem keepsOv_withAddress {d : Indexing} {o : Operand} {k : Addr → State → Result}
    (h : ∀ ea u, Ensures (k ea u) (KeepsOv u)) : Ensures (withAddress d o s k) (KeepsOv s) :=
  ensures_withAddress fun ea u hu => (h ea u).mono fun _ => hu.keepsOv.trans

theorem keepsOv_withOperand {o : Operand} {k : Word → State → Result} (h : ∀ w u, Ensures (k w u) (KeepsOv u)) :
    Ensures (withOperand o s k) (KeepsOv s) := keepsOv_withAddress fun _ _ => keepsOv_withWord h

theorem keepsOv_withIndexOperand {o : Operand} {k : Word → State → Result}
    (h : ∀ w u, Ensures (k w u) (KeepsOv u)) : Ensures (withIndexOperand o s k) (KeepsOv s) :=
  keepsOv_withAddress fun _ _ => keepsOv_withWord h

theorem keepsOv_withDoubleOperand {o : Operand} {k : Word → Word → State → Result}
    (h : ∀ w0 w1 u, Ensures (k w0 w1 u) (KeepsOv u)) : Ensures (withDoubleOperand o s k) (KeepsOv s) :=
  keepsOv_withAddress fun _ _ => keepsOv_withWord fun w0 _ => keepsOv_withWord fun w1 u => h w0 w1 u

theorem keepsOv_withStore {a : Addr} {w : Word} {k : State → Result} (h : ∀ u, Ensures (k u) (KeepsOv u)) :
    Ensures (withStore a w s k) (KeepsOv s) :=
  ensures_withStore (fun _ _ hu ht => hu.keepsOv.trans ht.keepsOv) fun u hu _ =>
    (h (u.poke a w)).mono fun _ => hu.keepsOv.trans

theorem keepsOv_withUpdate {a : Addr} {f : Word → Word} {k : State → Result}
    (h : ∀ u, Ensures (k u) (KeepsOv u)) : Ensures (withUpdate a f s k) (KeepsOv s) :=
  keepsOv_withWord fun _ _ => keepsOv_withStore h

theorem keepsOv_withStores {k : State → Result} (l : List Word) (a : Addr) (h : ∀ u, Ensures (k u) (KeepsOv u)) :
    Ensures (withStores a l s k) (KeepsOv s) := by
  induction l generalizing a s with
  | nil => exact h s
  | cons w l ih => exact keepsOv_withStore fun _ => ih (a + 1)

theorem keepsOv_storeOperand (o : Operand) (w : Word) : Ensures (storeOperand o w s) (KeepsOv s) :=
  keepsOv_withAddress fun _ _ => keepsOv_withStore keepsOv_done

theorem keepsOv_updateOperand (o : Operand) (f : Word → Word) : Ensures (updateOperand o f s) (KeepsOv s) :=
  keepsOv_withAddress fun _ _ => keepsOv_withUpdate keepsOv_done

theorem keepsOv_updateIndexOperand (o : Operand) (f : Word → Word) :
    Ensures (updateIndexOperand o f s) (KeepsOv s) := keepsOv_withAddress fun _ _ => keepsOv_withUpdate keepsOv_done

theorem keepsOv_storeDouble (o : Operand) (w0 w1 : Word) : Ensures (storeDouble o w0 w1 s) (KeepsOv s) :=
  keepsOv_withAddress fun _ _ => keepsOv_withStores _ _ keepsOv_done

theorem keepsOv_afterFloating (i : Instr) (sp : Spill) (h : KeepsOv s u) :
    Ensures (afterFloating i sp u) (KeepsOv s) := ensures_afterFloating (fun _ ht => h.trans ht.keepsOv) h

theorem keepsOv_finishFloating (i : Instr) (r : FpResult) (h : KeepsOv s u) :
    Ensures (finishFloating i r u) (KeepsOv s) := keepsOv_afterFloating _ _ (h.trans (.of_eq rfl))

theorem keepsOv_finishDoubleDivide (i : Instr) (r : FpResult) : Ensures (finishDoubleDivide i r s) (KeepsOv s) :=
  have hscratch : KeepsOv s (scratchIndicators s) := .of_eq rfl
  ensures_ite (fun _ => keepsOv_raise _ hscratch) fun _ => keepsOv_finishFloating _ _ hscratch

theorem keepsOv_transferTo (ea : Addr) (h : KeepsOv s u) : Ensures (transferTo ea u) (KeepsOv s) :=
  ensures_transferTo (fun _ _ ht => h.trans ht.keepsOv) fun _ => h.trans (.of_eq rfl)

theorem keepsOv_transferIf (b : Bool) (ea : Addr) (h : KeepsOv s u) : Ensures (transferIf b ea u) (KeepsOv s) :=
  ensures_transferIf (fun _ _ ht => h.trans ht.keepsOv) (h.trans (.of_eq rfl)) h

theorem keepsOv_transferOn (b : Bool) (o : Operand) : Ensures (transferOn b o s) (KeepsOv s) :=
  keepsOv_withAddress fun ea u => keepsOv_transferIf b ea (.refl u)

theorem keepsOv_privileged {r : Result} (h : Ensures r (KeepsOv s)) : Ensures (privileged s r) (KeepsOv s) :=
  ensures_privileged (fun _ _ => Trapped.keepsOv) fun _ => h

/-- A restricted instruction that reads one word at its effective address. -/
theorem keepsOv_restricted {o : Operand} {a : Addr → Addr} {k : Word → State → Result}
    (h : ∀ w u, Ensures (k w u) (KeepsOv u)) :
    Ensures (withAddress .double o s fun ea u => privileged u (withWord u (a ea) k)) (KeepsOv s) :=
  keepsOv_withAddress fun _ _ => keepsOv_privileged (keepsOv_withWord h)

theorem keepsOv_plusSense (ea : Addr) : Ensures (plusSense ea s) (KeepsOv s) :=
  ensures_ite (fun _ => keepsOv_next (.of_eq rfl)) fun _ => ensures_ite (fun _ => keepsOv_next (.of_eq rfl)) fun _ =>
    ensures_ite (fun _ => keepsOv_next (.of_eq (s.skipIf_ov _))) fun _ => ensures_refused

theorem keepsOv_minusSense (ea : Addr) : Ensures (minusSense ea s) (KeepsOv s) :=
  ensures_ite (fun _ => ensures_ite (fun _ => keepsOv_next (.of_eq rfl)) fun _ => keepsOv_done s) fun _ =>
    ensures_refused

theorem keepsOv_withOneChannel (w : Word) {k : ChannelId → Result} (h : ∀ ch, Ensures (k ch) (KeepsOv s)) :
    Ensures (withOneChannel w s k) (KeepsOv s) := ensures_withOneChannel (fun _ _ => Trapped.keepsOv) h

theorem keepsOv_startChannel (ch : ChannelId) (w : Word) : Ensures (startChannel ch w s) (KeepsOv s) :=
  ensures_ite (fun _ => keepsOv_next (.of_eq rfl)) fun _ => keepsOv_withWord fun _ _ => keepsOv_next (.of_eq rfl)

theorem keepsOv_withCount {o : Operand} {k : Nat → State → Result} (h : ∀ n u, Ensures (k n u) (KeepsOv u)) :
    Ensures (withCount o s k) (KeepsOv s) := keepsOv_withAddress fun ea => h (shiftCount ea)

theorem keepsOv_floatingAdd (i : Instr) (g : OperandSign) (norm : Bool) (o : Operand) :
    Ensures (floatingAdd i g norm o s) (KeepsOv s) :=
  keepsOv_withOperand fun _ u => keepsOv_finishFloating _ _ (.refl u)

theorem keepsOv_floatingMultiply (i : Instr) (norm : Bool) (o : Operand) :
    Ensures (floatingMultiply i norm o s) (KeepsOv s) :=
  keepsOv_withOperand fun _ u => keepsOv_finishFloating _ _ (.refl u)

theorem keepsOv_floatingDivide (i : Instr) (o : Operand) : Ensures (floatingDivide i o s) (KeepsOv s) :=
  keepsOv_withOperand fun _ u =>
    ensures_ite (fun _ => keepsOv_raise _ (.refl u)) fun _ => keepsOv_finishFloating _ _ (.refl u)

theorem keepsOv_doubleAdd (i : Instr) (g : OperandSign) (norm : Bool) (o : Operand) :
    Ensures (doubleAdd i g norm o s) (KeepsOv s) :=
  keepsOv_withDoubleOperand fun _ _ u => keepsOv_finishFloating _ _ (.refl u)

theorem keepsOv_doubleMultiply (i : Instr) (norm : Bool) (o : Operand) :
    Ensures (doubleMultiply i norm o s) (KeepsOv s) :=
  keepsOv_withDoubleOperand fun _ _ _ => keepsOv_finishFloating _ _ (.of_eq rfl)

theorem keepsOv_indexFromAddress (f : Addr → Addr) (o : Operand) : Ensures (indexFromAddress f o s) (KeepsOv s) :=
  keepsOv_withAddress fun _ u => keepsOv_next (.of_eq (u.setX_ov _ _))

theorem keepsOv_indexFromAcc (v : Addr) (o : Operand) : Ensures (indexFromAcc v o s) (KeepsOv s) :=
  keepsOv_withAddress fun _ u => keepsOv_next (.of_eq (u.setX_ov _ _))

theorem keepsOv_indexFromWord (f : Word → Addr) (o : Operand) : Ensures (indexFromWord f o s) (KeepsOv s) :=
  keepsOv_withIndexOperand fun _ u => keepsOv_next (.of_eq (u.setX_ov _ _))

theorem keepsOv_accFromIndex (a : Acc) (o : Operand) : Ensures (accFromIndex a o s) (KeepsOv s) :=
  keepsOv_withAddress fun _ _ => keepsOv_next (.of_eq rfl)

theorem keepsOv_changeAcc (f : Acc → Acc) (o : Operand) : Ensures (changeAcc f o s) (KeepsOv s) :=
  keepsOv_withAddress fun _ _ => keepsOv_next (.of_eq rfl)

theorem keepsOv_changeIndicators (w : Word) (o : Operand) : Ensures (changeIndicators w o s) (KeepsOv s) :=
  keepsOv_withAddress fun _ _ => keepsOv_next (.of_eq rfl)

theorem keepsOv_maskIndicators (f : Word → Addr → Word) (o : Operand) :
    Ensures (maskIndicators f o s) (KeepsOv s) := keepsOv_withAddress fun _ _ => keepsOv_next (.of_eq rfl)

theorem keepsOv_testIndicators (f : Word → Addr → Bool) (o : Operand) :
    Ensures (testIndicators f o s) (KeepsOv s) :=
  keepsOv_withAddress fun _ u => keepsOv_next (.of_eq (u.skipIf_ov _))

theorem keepsOv_closeLoop (rel : Addr → Addr → Bool) (o : Operand) : Ensures (closeLoop rel o s) (KeepsOv s) :=
  keepsOv_withAddress fun _ u => keepsOv_transferIf _ _ (.of_eq (u.setX_ov _ _))

theorem keepsOv_toBeDefined (o : Operand) : Ensures (toBeDefined o s) (KeepsOv s) :=
  keepsOv_withAddress fun _ _ => ensures_refused

/-! ## Every instruction -/

/-- The instructions that may turn the trigger off (R268, R269, R166). -/
def TurnsOvOff (i : Instr) : Prop := ∃ o, i = .tov o ∨ i = .tno o ∨ i = .rcpu o

/-- Every other instruction keeps the trigger on; the cases stand together by what they do with their operand. Each
goal is brought to the instruction's own meaning first: `exec` itself is too large to be unfolded by unification. -/
theorem exec_keepsOv (i : Instr) (hx : ∀ o, i ≠ .xec o) (hoff : ¬ TurnsOvOff i) :
    Ensures (exec i s) (KeepsOv s) := by
  cases i with dsimp only [exec]
  | xec o => exact absurd rfl (hx o)
  | tov o => exact absurd ⟨o, .inl rfl⟩ hoff
  | tno o => exact absurd ⟨o, .inr (.inl rfl)⟩ hoff
  | rcpu o => exact absurd ⟨o, .inr (.inr rfl)⟩ hoff
  -- the arithmetic that can turn the trigger on
  | add o | adm o | sub o | sbm o => exact keepsOv_withOperand fun _ u => keepsOv_next (.addToAc u _ _)
  | rnd o => exact keepsOv_withAddress fun _ u => keepsOv_next (.ite (.addToAc u _ _) (.refl u))
  | imp o =>
    exact keepsOv_withAddress fun _ _ =>
      ensures_ite (fun _ => keepsOv_withWord fun w u => keepsOv_next (.integerMultiply u w)) fun _ => ensures_refused
  | als o | lls o | lgl o => exact keepsOv_withCount fun _ _ => keepsOv_next (.of_or rfl)
  -- an operand is read and registers other than the trigger are set
  | cla o | cal o | cls o | lla o | lra o | ldq o | acl o | mpy o | ora o | ana o | era o | ldi o | osi o | ris o
  | iis o | laci o | flt o => exact keepsOv_withOperand fun _ _ => keepsOv_next (.of_eq rfl)
  | mpr o =>
    exact keepsOv_withOperand fun w u => keepsOv_next (.trans (t := multiply u w) (.of_eq rfl) (.roundProduct _))
  | dla o | dlld o | dldn o => exact keepsOv_withDoubleOperand fun _ _ _ => keepsOv_next (.of_eq rfl)
  | smp o | ptr o | scar o => exact keepsOv_restricted fun _ _ => keepsOv_next (.of_eq rfl)
  | ctr o => exact keepsOv_restricted fun _ _ => keepsOv_between fun _ => keepsOv_next (.of_eq rfl)
  -- only the address is formed, and registers other than the trigger are set
  | xca o | xcl o | enk o | nop o | hpr o | ttr o | etm o | ltm o | pia o | sxar o =>
    exact keepsOv_withAddress fun _ _ => keepsOv_next (.of_eq rfl)
  | ars o | lrs o | lgr o | rql o => exact keepsOv_withCount fun _ _ => keepsOv_next (.of_eq rfl)
  | com o | clm o | chs o | ssp o | ssm o => exact keepsOv_changeAcc _ o
  | pai o | oai o | ria o | iia o => exact keepsOv_changeIndicators _ o
  | ril o | rir o | sil o | sir o | iil o | iir o => exact keepsOv_maskIndicators _ o
  -- stores
  | sto o | slw o | stan o | stq o | stz o | sti o | saci o => exact keepsOv_storeOperand o _
  | stal o | star o | slq o | stl o | ors o | ans o | ers o | ados o | ois o | lasi o => exact keepsOv_updateOperand o _
  | dst o | dlsf o | dstn o => exact keepsOv_storeDouble o _ _
  | sxa o | sxd o | sca o | scd o => exact keepsOv_updateIndexOperand o _
  | scpu o => exact keepsOv_withAddress fun _ _ => keepsOv_withStores _ _ keepsOv_done
  | smx o =>
    exact keepsOv_withAddress fun _ u => ensures_ite (fun _ => keepsOv_done u) fun _ =>
      keepsOv_withUpdate fun _ => keepsOv_withStores _ _ keepsOv_done
  -- fixed point with a count or a divide check
  | vlm o =>
    exact keepsOv_withAddress fun _ u => ensures_ite (fun _ => keepsOv_done u) fun _ =>
      keepsOv_withWord fun _ _ => keepsOv_next (.of_eq rfl)
  | dvt o =>
    exact keepsOv_withOperand fun _ u => ensures_ite (fun _ => keepsOv_raise _ (.refl u)) fun _ =>
      keepsOv_next (.of_eq rfl)
  | idv o =>
    exact keepsOv_withAddress fun _ _ => ensures_ite
      (fun _ => keepsOv_withWord fun _ u => ensures_ite (fun _ => keepsOv_raise _ (.refl u)) fun _ =>
        keepsOv_next (.of_eq rfl))
      fun _ => ensures_refused
  | vdt o =>
    exact keepsOv_withAddress fun _ u => ensures_ite (fun _ => keepsOv_done u) fun _ =>
      keepsOv_withWord fun _ u => ensures_ite (fun _ => keepsOv_raise _ (.refl u)) fun _ => keepsOv_next (.of_eq rfl)
  -- floating point, which leaves the trigger whether or not it spills (R203)
  | fad o | fam o | ufa o | uam o | fsb o | fsm o | ufs o | usm o => exact keepsOv_floatingAdd _ _ _ o
  | fmp o | ufm o => exact keepsOv_floatingMultiply _ _ o
  | fdt o | fdh o => exact keepsOv_floatingDivide _ o
  | frn o | adxp o => exact keepsOv_withAddress fun _ _ => keepsOv_afterFloating _ _ (.of_eq rfl)
  | frd o =>
    exact keepsOv_withAddress fun _ _ => ensures_ite
      (fun _ => keepsOv_withWord fun _ u => ensures_ite (fun _ => keepsOv_raise _ (.refl u)) fun _ =>
        keepsOv_afterFloating _ _ (.of_eq rfl))
      fun _ => ensures_refused
  | dfad o | dfam o | dufa o | duam o | dfsb o | dfsm o | dufs o | dusm o => exact keepsOv_doubleAdd _ _ _ o
  | dfmp o | dufm o => exact keepsOv_doubleMultiply _ _ o
  | dfdt o | dfrd o => exact keepsOv_withDoubleOperand fun _ _ _ => keepsOv_finishDoubleDivide _ _
  | fix o =>
    exact keepsOv_withOperand fun _ _ => ensures_ite (fun _ => keepsOv_raise _ (.of_eq rfl)) fun _ =>
      keepsOv_next (.of_eq rfl)
  -- transfers, tests and skips
  | htr o => exact keepsOv_withAddress fun _ _ => keepsOv_transferTo _ (.of_eq rfl)
  | tra o | tze o | tnz o | tpl o | tmi o | tzm o | tzp o | tgz o | tlz o | tqp o | tlq o | txrh o | txnh o | txrl o
  | txnl o | txre o | txne o => exact keepsOv_transferOn _ o
  | tsl o => exact keepsOv_withAddress fun _ _ => keepsOv_withUpdate fun u => keepsOv_transferTo _ (.refl u)
  | tsx o => exact keepsOv_withAddress fun _ u => keepsOv_transferTo _ (.of_eq (u.setX_ov _ _))
  | txf o => exact keepsOv_withAddress fun _ u => keepsOv_transferIf _ _ (.of_eq (u.setX_ov _ _))
  | xlf o | xlb o => exact keepsOv_closeLoop _ o
  | pse o => exact keepsOv_withAddress fun ea _ => keepsOv_plusSense ea
  | mse o => exact keepsOv_withAddress fun ea _ => keepsOv_minusSense ea
  | pbt o | lbt o => exact keepsOv_withAddress fun _ u => keepsOv_next (.of_eq (u.skipIf_ov _))
  | zet o | nzt o | oft o | ont o => exact keepsOv_withOperand fun _ u => keepsOv_next (.of_eq (u.skipIf_ov _))
  | rft o | rnt o | lft o | lnt o => exact keepsOv_testIndicators _ o
  | cas o | las o | casi o => exact keepsOv_withOperand fun _ u => keepsOv_next (.of_eq (u.skipOn_ov _))
  | cmon o => exact keepsOv_withAddress fun ea u => keepsOv_raise (.monitorCall ea) (.refl u)
  -- index registers
  | axi o | axc o => exact keepsOv_indexFromAddress _ o
  | pxa o | pxd o | pcd o | pca o => exact keepsOv_accFromIndex _ o
  | pax o | pac o | pdc o | pchx o => exact keepsOv_indexFromAcc _ o
  | lxa o | lxd o | lac o | ldc o | adxs o | sbxs o | lxs o => exact keepsOv_indexFromWord _ o
  | adxd o =>
    exact keepsOv_withAddress fun _ u => ensures_ite (fun _ => keepsOv_done u) fun _ =>
      keepsOv_withWord fun _ u => keepsOv_next (.of_eq (u.addToIndex_ov _ _))
  | sbxd o =>
    exact keepsOv_withAddress fun _ u => ensures_ite (fun _ => keepsOv_done u) fun _ =>
      keepsOv_withWord fun _ u => keepsOv_next (.of_eq (u.subtractFromIndex_ov _ _))
  | adxi o => exact keepsOv_withAddress fun _ u => keepsOv_next (.ite (.refl u) (.of_eq (u.addToIndex_ov _ _)))
  | sbxi o => exact keepsOv_withAddress fun _ u => keepsOv_next (.ite (.refl u) (.of_eq (u.subtractFromIndex_ov _ _)))
  | cxs o | cxd o => exact keepsOv_withIndexOperand fun _ u => keepsOv_next (.of_eq (u.compareIndex_ov _ _))
  | cxi o => exact keepsOv_withAddress fun _ u => keepsOv_next (.of_eq (u.compareIndex_ov _ _))
  | lmx o =>
    exact keepsOv_withAddress fun _ u => ensures_ite (fun _ => keepsOv_done u) fun _ =>
      keepsOv_withWord fun _ _ => keepsOv_withWords fun _ u =>
        keepsOv_next (.trans (.of_eq (u.setX_ov _ _)) (.loadPairs _ _ _ _))
  | sqxl o => exact keepsOv_withAddress fun _ _ => keepsOv_next (.of_eq (State.setX_ov _ _ _))
  | sqxt o =>
    exact keepsOv_withAddress fun _ _ => ensures_ite (fun _ => ensures_refused) fun _ =>
      keepsOv_next (.of_eq (by simp [shiftMqAndTest]))
  | sxat o =>
    exact keepsOv_withAddress fun _ _ => ensures_ite (fun _ => ensures_refused) fun _ =>
      keepsOv_next (.of_eq (by simp [shiftIndexAndTest]))
  -- the processor's input-output instructions
  | stc o =>
    exact keepsOv_withOperand fun w u => keepsOv_withOneChannel w fun ch =>
      ensures_ite (fun _ => keepsOv_next (.thenHandSpecial w (.refl u))) fun _ => keepsOv_startChannel ch w
  | cht o =>
    exact keepsOv_withOperand fun w _ => keepsOv_withOneChannel w fun _ => keepsOv_between fun _ =>
      keepsOv_next (.thenHandSpecial w (.of_eq (by simp)))
  | sch o =>
    exact keepsOv_withOperand fun w _ => keepsOv_withOneChannel w fun _ => keepsOv_between fun u =>
      ensures_between fun v hv => keepsOv_next <| .thenHandSpecial w <|
        .trans (.of_eq (u.storeFor_ov _ _ _ _)) (hv.keepsOv.trans (.of_eq (v.storeFor_ov _ _ _ _)))
  | hch o =>
    exact keepsOv_withOperand fun w u => ensures_ite (fun _ => keepsOv_raise _ (.refl u)) fun _ =>
      keepsOv_next (.thenHandSpecial w (.forChannels KeepsOv.requestHalt _ u))
  | ict o => exact keepsOv_restricted fun w _ => keepsOv_next (.thenHandSpecial w (.of_eq rfl))
  | enb o =>
    exact keepsOv_restricted fun w u => keepsOv_next (.thenHandSpecial w (.forChannels (.enableChannel _) _ u))
  -- what the source leaves undefined or undescribed
  | ltmr o | stmr o | lrtc o | srtc o | cdec o | cbin o => exact keepsOv_toBeDefined o
  | sbp o => exact keepsOv_withAddress fun _ _ => ensures_refused
  -- the words of a channel
  | chSense m f y | chReadBackward m f y | chWrite m f y | chRead m f y | chControl m f y =>
    exact (commanded_controlUnitOperation _).mono fun _ => Commanded.keepsOv
  | chTch f y => exact (commanded_execChTch f y).mono fun _ => Commanded.keepsOv
  | chXec f y => exact (commanded_execChXec f y).mono fun _ => Commanded.keepsOv
  | dcwTcw c y | dcwCcw c y | dcwCcwn c y => exact (commanded_loadControlWord _ _ c y).mono fun _ => Commanded.keepsOv
  | dcwTcwInd c y | dcwCcwInd c y =>
    exact (commanded_loadIndirectControlWord _ c y).mono fun _ => Commanded.keepsOv

/-! ## The way to the end of an XEC chain -/

theorem BeforeAccess.keepsOv {s u : State} (h : BeforeAccess s u) : KeepsOv s u := by
  unfold BeforeAccess at h
  split at h
  · subst h; exact .refl _
  · next turns rest _ => exact (turned_runTurns turns _ h).keepsOv

theorem Reads.keepsOv {s u : State} {a : Addr} {w : Word} (h : Reads s a w u) : KeepsOv s u := h.1.keepsOv

theorem Addresses.keepsOv {d : Indexing} {o : Operand} {s u : State} {ea : Addr} (h : Addresses d o s ea u) :
    KeepsOv s u := by
  induction h with
  | direct _ => exact .refl _
  | indirect _ hr _ ih => exact hr.keepsOv.trans ih

theorem Decodes.keepsOv {s u : State} {w : Word} {i : Instr} (h : Decodes s w i u) : KeepsOv s u := by
  cases h with
  | plain _ _ => exact .refl _
  | selector _ ha _ => exact ha.keepsOv

theorem ComesTo.keepsOv {s u : State} {i j : Instr} (h : ComesTo s i u j) : KeepsOv s u := by
  induction h with
  | here _ => exact .refl _
  | object ha hr hd _ ih => exact ha.keepsOv.trans (hr.keepsOv.trans (hd.keepsOv.trans ih))

theorem ComesTo.ne_xec {s u : State} {i j : Instr} (h : ComesTo s i u j) : ∀ o, j ≠ .xec o := by
  induction h with
  | here h => exact h
  | object _ _ _ _ ih => exact ih

/-- Settles O59: an instruction comes to one that is no XEC with the trigger still on, and of those only TOV, TNO and
RCPU turn it off. -/
theorem overflowStays : Obligations.OverflowStays := by
  unfold Obligations.OverflowStays
  intro i s t h hs ht
  obtain ⟨u, j, hc, hj⟩ := exec_comesTo h
  refine ⟨u, j, hc, by_contra fun hoff => ?_⟩
  have hon : t.ov = true := exec_keepsOv j hc.ne_xec hoff t hj (hc.keepsOv hs)
  exact absurd hon (by simp [ht])

end Sys2Proof.Machine
end

section
/-! Storage, index registers and protection (R23, R24, R72, R73, R80, R81): what is read after a write, and when a
store violates. -/

namespace Sys2Proof.Machine

/-- Settles O7, from the read-after-write laws of storage and of the index registers. -/
theorem accessLaws : Obligations.AccessLaws := by
  unfold Obligations.AccessLaws
  constructor
  · exact fun s a w => ⟨s.load_poke_same a w, fun b hb => s.load_poke_of_ne w hb, onlyStorage_poke s a w⟩
  · refine fun s v => ⟨s.x_zero, s.setX_zero v, fun n h1 h15 => ⟨?_, ?_, ?_⟩⟩
    · exact s.x_setX_same (by omega) h15 v
    · exact fun m hm => s.x_setX_of_ne hm v
    · exact s.setX_eq n v

/-- The protection block of an address is its number over 2^8 (R80). -/
theorem blockOf_toNat (a : Addr) : (blockOf a).toNat = a.toNat / 2 ^ 8 := by
  have := a.isLt
  rw [blockOf, BitVec.extractLsb'_toNat, Nat.shiftRight_eq_div_pow]
  exact Nat.mod_eq_of_lt (by omega)

theorem State.outsideBounds_iff (s : State) (a : Addr) :
    s.outsideBounds a = true ↔ s.hpr.toNat < a.toNat / 2 ^ 8 ∨ a.toNat / 2 ^ 8 < s.lpr.toNat := by
  simp only [State.outsideBounds, Bool.or_eq_true, decide_eq_true_eq, BitVec.lt_def, blockOf_toNat]

theorem State.violates_iff (s : State) (a : Addr) :
    s.violates a = true ↔ s.outsideBounds a = true ∧ s.problem = true := by
  rw [State.violates, Bool.and_eq_true, and_comm]

theorem State.violates_eq_false (s : State) (a : Addr) :
    s.violates a = false ↔ s.problem = false ∨ s.outsideBounds a = false := by
  rw [State.violates, Bool.and_eq_false_iff]

/-- Settles O10: the comparison is that of the block numbers, and a store with no turn inside is made or traps by its
verdict. -/
theorem protectionVerdict : Obligations.ProtectionVerdict := by
  unfold Obligations.ProtectionVerdict
  refine fun s a => ⟨s.outsideBounds_iff a, s.violates_iff a, ?_, ?_, ?_⟩
  · exact fun hq hp w k => withStore_of_allowed hq ((s.violates_eq_false a).2 (.inl hp))
  · exact fun hq hv w k => withStore_of_violation hq hv
  · intro hlpr b
    rw [s.outsideBounds_iff b]
    omega

/-- Settles O11: the trap is taken from the very state in which the store was tried. -/
theorem actualViolation : Obligations.ActualViolation := by
  unfold Obligations.ActualViolation
  refine fun s a w k hq => ⟨?_, ?_⟩
  · exact fun h => withStore_of_allowed hq ((s.violates_eq_false a).2 h)
  · exact fun hp ho => ⟨s, withStore_of_violation hq ((s.violates_iff a).2 ⟨ho, hp⟩), rfl, fun _ _ => rfl⟩

end Sys2Proof.Machine
end

section
/-! A problem program is confined (R80-R82, R84, R507): what an instruction can do is `exec_effect`; here, what a CPU
trap's entry does to the privileged registers and to storage outside the bounds. -/

namespace Sys2Proof.Machine

theorem SamePrivileges.trans {s t u : State} (h : SamePrivileges s t) (g : SamePrivileges t u) :
    SamePrivileges s u := by
  obtain ⟨hhpr, hlpr, hcar, hict, hcti, henb⟩ := h
  obtain ⟨ghpr, glpr, gcar, gict, gcti, genb⟩ := g
  exact ⟨ghpr.trans hhpr, glpr.trans hlpr, gcar.trans hcar, gict.trans hict, gcti.trans hcti,
    fun ch => (genb ch).trans (henb ch)⟩

theorem Ordinary.samePrivileges {s t : State} (h : Ordinary s t) : SamePrivileges s t :=
  ⟨h.hpr, h.lpr, h.car, h.ictMask, h.cti, h.enb⟩

theorem Ordinary.outsideBounds {s t : State} (h : Ordinary s t) (a : Addr) :
    t.outsideBounds a = s.outsideBounds a := by
  simp only [State.outsideBounds, h.hpr, h.lpr]

theorem Trapped.samePrivileges {c : CpuTrap} {s t : State} (h : Trapped c s t) : SamePrivileges s t := by
  obtain ⟨u, hu, rfl⟩ := h
  have hgates : ∀ ch, (u.channel ch).enb = (s.channel ch).enb := fun ch => (hu.gates ch).1
  refine ⟨?_, ?_, ?_, ?_, ?_, hgates⟩ <;> rw [hu.same] <;> rfl

/-- The traps of 7095 Mode store at R1, R2, R4 and R5 only: R3 is the trap of an I/O instruction in Compatible
Mode, which alone leaves for R8 (R502, R508). -/
theorem CpuTrap.stores_address_of_target {c : CpuTrap} {s : State} {a : Addr} (hc : c.target ≠ .r8)
    (h : a ∈ (c.stores s).map Prod.fst) : a ∈ cpuTrapStores := by
  cases c with
  | ioInCompatibleMode op ea => exact absurd rfl hc
  | transfer | monitorCall ea | protectViolation | illegalOperation | divideCheck | floatingPoint i sp =>
    simp only [CpuTrap.stores, CpuTrap.save, CpuTrap.information, List.map_cons, List.map_nil, List.mem_cons,
      List.not_mem_nil, or_false] at h
    simp only [cpuTrapStores, List.map_cons, List.map_nil, List.mem_cons, List.not_mem_nil, or_false]
    tauto

/-- The entry of a trap of 7095 Mode leaves the words outside the bounds that are not at its own locations. -/
theorem Trapped.load_of_outside {c : CpuTrap} {s t : State} {a : Addr} (h : Trapped c s t) (hc : c.target ≠ .r8)
    (hs : s.Calm) (ho : s.outsideBounds a = true) (ha : a ∉ cpuTrapStores) : t.load a = s.load a := by
  obtain ⟨u, hu, rfl⟩ := h
  have hother : a ∉ (c.stores s).map Prod.fst := fun hm => ha (CpuTrap.stores_address_of_target hc hm)
  exact (u.enterAt_load _ a).trans (hu.stores a hother hs ho)

/-- Settles O57: of the three things an instruction can do, a restricted instruction's work is not done in Problem
Program Mode; an ordinary change keeps what is guarded, and a trap's entry stores at its own locations. -/
theorem problemModeConfined : Obligations.ProblemModeConfined := by
  unfold Obligations.ProblemModeConfined
  intro i s t hp h
  cases exec_effect s i t h with
  | ordinary hord => exact ⟨hord.samePrivileges, fun hcalm a ho _ => hord.stores a hp hcalm ho⟩
  | @trap u _ c hord hc htrap =>
    refine ⟨hord.samePrivileges.trans htrap.samePrivileges, fun hcalm a ho ha => ?_⟩
    calc t.load a
      _ = u.load a := htrap.load_of_outside hc (hord.calm hp hcalm) ((hord.outsideBounds a).trans ho) ha
      _ = s.load a := hord.stores a hp hcalm ho
  | monitor hmonitor _ => exact absurd (hmonitor.symm.trans hp) Bool.false_ne_true

end Sys2Proof.Machine
end

section
/-! Turns inside an instruction (R77, R564): each access with turns before it, run forward. The laws of Chains.lean say
what an access that ended in a next state has met; these say what it answers. -/

namespace Sys2Proof.Machine

variable {s u : State}

/-! ## What turns leave to the instruction -/

theorem directAddress_of_xr {d : Indexing} {o : Operand} (h : u.xr = s.xr) :
    directAddress d o u = directAddress d o s := by
  simp only [directAddress, State.x, h]

theorem BeforeAccess.between (h : BeforeAccess s u) {k : State → Result} : between s k = k u := by
  unfold BeforeAccess at h
  split at h
  · next hi => rw [between_of_quiet hi, h]
  · next turns rest hi => rw [between_of_turns hi, h, andThen_next]

theorem BeforeAccess.of_turns {turns : List Turn} {rest : List (List Turn)} (hi : s.inside = turns :: rest)
    (h : runTurns turns { s with inside := rest } = .next u) : BeforeAccess s u := by
  rw [BeforeAccess, hi]
  exact h

/-- A turn that stops stops the access it stands before. -/
theorem between_of_fault {turns : List Turn} {rest : List (List Turn)} {f : Fault} {k : State → Result}
    (hi : s.inside = turns :: rest) (h : runTurns turns { s with inside := rest } = .fault f) :
    between s k = .fault f := by
  rw [between_of_turns hi, h]
  rfl

/-! ## Accesses -/

theorem Reads.withWord {a : Addr} {w : Word} (h : Reads s a w u) {k : Word → State → Result} :
    withWord s a k = k w u := by
  obtain ⟨hbefore, hload⟩ := h
  rw [Machine.withWord, hbefore.between, readWord_of_load hload]

theorem BeforeAccess.withStore {a : Addr} (h : BeforeAccess s u) (hv : u.violates a = false) {w : Word}
    {k : State → Result} : withStore a w s k = k (u.poke a w) := by
  rw [Machine.withStore, h.between, if_neg (by simp [hv])]

theorem Reads.withUpdate {v : State} {a : Addr} {w : Word} (h : Reads s a w u) (hv : BeforeAccess u v)
    (hallowed : v.violates a = false) {f : Word → Word} {k : State → Result} :
    withUpdate a f s k = k (v.poke a (f w)) := by
  rw [Machine.withUpdate, h.withWord, hv.withStore hallowed]

theorem BeforeAccess.withPokes_cons {a : Addr} {w : Word} {l : List (Addr × Word)} (h : BeforeAccess s u)
    {k : State → Result} : withPokes ((a, w) :: l) s k = withPokes l (u.poke a w) k := by
  rw [withPokes, h.between]

/-- The chain of one indirect word, read in the state that the turns before it leave. -/
theorem Reads.withAddress {d : Indexing} {o : Operand} {iw : Word} (ho : o.f = true)
    (h : Reads s (directAddress d o s) iw u) (hf : (operandField iw).f = false) {k : Addr → State → Result} :
    withAddress d o s k = k (directAddress .double (operandField iw) u) u := by
  have hlimit : s.chainLimit = 262143 + s.inside.length + 1 := by simp only [State.chainLimit, chainFuel]; omega
  rw [Machine.withAddress, if_pos ho, hlimit, withChain, h.withWord]
  simp only [hf, Bool.false_eq_true, if_false]

/-! ## The instructions of the statement, their operand not indirect -/

variable {v : State} {o : Operand} {w : Word}

theorem execCla_of_reads (ho : o.f = false) (h : Reads s (directAddress .double o s) w u) :
    execCla o s = .next { u with ac := Acc.ofSigned w } := by
  rw [execCla, withOperand, withAddress_of_direct ho, h.withWord]

theorem execDla_of_reads {w1 : Word} (ho : o.f = false) (h : Reads s (directAddress .double o s) w u)
    (h1 : Reads u (directAddress .double o s + 1) w1 v) :
    execDla o s = .next { v with ac := Acc.ofSigned w, mq := w1 } := by
  rw [execDla, withDoubleOperand, withAddress_of_direct ho, withDouble, h.withWord, h1.withWord]

theorem updateOperand_of_reads (ho : o.f = false) (h : Reads s (directAddress .double o s) w u)
    (hv : BeforeAccess u v) (hallowed : v.violates (directAddress .double o s) = false) (f : Word → Word) :
    updateOperand o f s = .next (v.poke (directAddress .double o s) (f w)) := by
  rw [updateOperand, withAddress_of_direct ho, h.withUpdate hv hallowed]

theorem execSto_of_before (ho : o.f = false) (hu : BeforeAccess s u)
    (hallowed : u.violates (directAddress .double o s) = false) :
    execSto o s = .next (u.poke (directAddress .double o s) s.ac.signedWord) := by
  rw [execSto, storeOperand, withAddress_of_direct ho, hu.withStore hallowed]

theorem execDst_of_before (ho : o.f = false) (hu : BeforeAccess s u)
    (hallowed : u.violates (directAddress .double o s) = false)
    (hv : BeforeAccess (u.poke (directAddress .double o s) s.ac.signedWord) v)
    (hallowed' : v.violates (directAddress .double o s + 1) = false) :
    execDst o s = .next (v.poke (directAddress .double o s + 1) s.mq) := by
  rw [execDst, storeDouble, withAddress_of_direct ho, withStores, hu.withStore hallowed, withStores,
    hv.withStore hallowed', withStores]

/-- CMON's trap makes its two stores in the states that the turns before them leave, its words being those of the
state it was raised in. -/
theorem execCmon_of_before (ho : o.f = false) (hu : BeforeAccess s u)
    (hv : BeforeAccess (u.poke (locationAddress .r5) (joinHalves s.modeStatus (s.il + 1))) v) :
    execCmon o s =
      .next ((v.poke (locationAddress .r2) (joinHalves 0 (directAddress .double o s))).enterAt
        (locationAddress .r10)) := by
  have hstores : (CpuTrap.monitorCall (directAddress .double o s)).stores s =
      [(locationAddress .r5, joinHalves s.modeStatus (s.il + 1)),
        (locationAddress .r2, joinHalves 0 (directAddress .double o s))] := rfl
  rw [execCmon, withAddress_of_direct ho, raise, hstores, hu.withPokes_cons, hv.withPokes_cons, withPokes]
  rfl

theorem execCla_of_indirect {iw : Word} (ho : o.f = true) (h : Reads s (directAddress .double o s) iw u)
    (hf : (operandField iw).f = false) (hw : Reads u (directAddress .double (operandField iw) u) w v) :
    execCla o s = .next { v with ac := Acc.ofSigned w } := by
  rw [execCla, withOperand, h.withAddress ho hf, hw.withWord]

/-- Settles O56: the turns before the first access take `s` to `u`, those before the second take `u`, or what the
first store has made of it, to `v`; each instruction makes its accesses in those states. -/
theorem turnsBetweenAccesses : Obligations.TurnsBetweenAccesses := by
  unfold Obligations.TurnsBetweenAccesses
  refine ⟨fun turns s t h => (turned_runTurns turns t h).same, ?_⟩
  rintro o s u ea first second hi rfl
  refine ⟨fun f hf ho => ?_, fun hfirst => ?_⟩
  · dsimp only [exec]
    rw [execCla, withOperand, withAddress_of_direct ho]
    exact between_of_fault hi hf
  have hsame := (turned_runTurns first u hfirst).same
  have hu : BeforeAccess s u := .of_turns hi hfirst
  have hui : u.inside = [second] := by rw [hsame]
  refine ⟨fun ho => ⟨fun w hw => ?_, fun hallowed => ?_, fun v hv => ?_⟩, fun ho iw w x v hiw hf hx hv hw => ?_⟩
  · have hr : Reads s (directAddress .double o s) w u := ⟨hu, hw⟩
    refine ⟨execCla_of_reads ho hr, fun v hsecond => ?_⟩
    have hv : BeforeAccess u v := .of_turns hui hsecond
    refine ⟨fun w1 hw1 => execDla_of_reads ho hr ⟨hv, hw1⟩, fun hallowed => ?_⟩
    have hupdate := updateOperand_of_reads ho hr hv hallowed
    simp only [List.forall_mem_cons]
    exact ⟨hupdate _, hupdate _, hupdate _, hupdate _, hupdate _, List.forall_mem_nil _⟩
  · refine ⟨execSto_of_before ho hu hallowed, fun v hsecond hallowed' => ?_⟩
    exact execDst_of_before ho hu hallowed (.of_turns hui hsecond) hallowed'
  · exact execCmon_of_before ho hu (.of_turns hui hv)
  · have hxr : u.xr = s.xr := by rw [hsame]
    rw [hx, ← directAddress_of_xr hxr] at hw
    exact execCla_of_indirect ho ⟨hu, hiw⟩ hf ⟨.of_turns hui hv, hw⟩

end Sys2Proof.Machine
end

section
/-! Stores that violate protection (R73, R85, R505): one lemma for each way an instruction stores, and the two blocks of
SCPU and SMX (R165, R340). -/

namespace Sys2Proof.Machine

/-! ## The words of the blocks -/

theorem halfPosition_or (x y : Addr) (p : Fin 18) :
    halfPosition (x ||| y) p = (halfPosition x p || halfPosition y p) := BitVec.getLsbD_or

/-- The word of SCPU's indicators holds them at the places of `SCPU_LAYOUT` (R165, log 8). -/
theorem indicatorHalf_packIndicators (s : State) : IndicatorHalf s (packIndicators s) := by
  have hbit : ∀ p, halfPosition (packIndicators s) p =
      (decide (0 = p) && s.ov || decide (1 = p) && s.ac.p || decide (2 = p) && s.ac.q ||
        decide (3 = p) && s.ixh || decide (4 = p) && s.ixl || decide (5 = p) && s.ixe) := by
    intro p
    simp only [packIndicators, halfPosition_or, halfPosition_halfBit]
    rfl
  refine ⟨?_, ?_, ?_, ?_, ?_, ?_, fun p hp => ?_⟩
  iterate 6 · rw [hbit]; simp
  · have hne : ∀ q : Fin 18, q.val ≤ 5 → q ≠ p := fun q hq e => by rw [← e] at hp; omega
    simp [hbit, hne]

theorem savedProcessor_eq (s : State) (n : Nat) : savedProcessor s n = scpuBlock s n (packIndicators s) := rfl

theorem smxBlock_eq (s : State) (n : Nat) (w : Word) :
    smxBlock s n w = withRight (s.x 1) w :: indexPairs s n := rfl

theorem savedProcessor_length (s : State) (n : Nat) : (savedProcessor s n).length = 2 + n / 2 := by
  simp [savedProcessor, indexPairs]; omega

theorem indexPairs_length (s : State) (n : Nat) : (indexPairs s n).length = n / 2 := by simp [indexPairs]

/-! ## Ways of storing -/

section
variable {s : State} {o : Operand} {ea : Addr}

theorem storeOperand_of_violation (hq : s.inside = []) (h : effectiveAddress .double o s = .ok ea)
    (hv : s.violates ea = true) (w : Word) : storeOperand o w s = .next (takeTrap .protectViolation s) := by
  rw [storeOperand, withAddress_of_ok hq h, withStore_of_violation hq hv]

theorem updateOperand_of_violation {w : Word} (hq : s.inside = []) (h : effectiveAddress .double o s = .ok ea)
    (hw : s.load ea = some w) (hv : s.violates ea = true) (f : Word → Word) :
    updateOperand o f s = .next (takeTrap .protectViolation s) := by
  rw [updateOperand, withAddress_of_ok hq h, withUpdate_of_violation hq hw hv]

theorem updateIndexOperand_of_violation {w : Word} (hq : s.inside = []) (h : effectiveAddress .single o s = .ok ea)
    (hw : s.load ea = some w) (hv : s.violates ea = true) (f : Word → Word) :
    updateIndexOperand o f s = .next (takeTrap .protectViolation s) := by
  rw [updateIndexOperand, withAddress_of_ok hq h, withUpdate_of_violation hq hw hv]

/-- TSL makes no transfer when its store violates (R281). -/
theorem execTsl_of_violation {w : Word} (hq : s.inside = []) (h : effectiveAddress .double o s = .ok ea)
    (hw : s.load ea = some w) (hv : s.violates ea = true) : execTsl o s = .next (takeTrap .protectViolation s) := by
  rw [execTsl, withAddress_of_ok hq h, withUpdate_of_violation hq hw hv]

theorem storeDouble_of_first_violation (hq : s.inside = []) (h : effectiveAddress .double o s = .ok ea)
    (hv : s.violates ea = true) (w0 w1 : Word) :
    storeDouble o w0 w1 s = .next (takeTrap .protectViolation s) := by
  rw [storeDouble, withAddress_of_ok hq h, withStores, withStore_of_violation hq hv]

theorem storeDouble_of_second_violation (hq : s.inside = []) (h : effectiveAddress .double o s = .ok ea)
    (hv : s.violates ea = false) (hv1 : s.violates (ea + 1) = true) (w0 w1 : Word) :
    storeDouble o w0 w1 s = .next (takeTrap .protectViolation (s.poke ea w0)) := by
  have hq0 : (s.poke ea w0).inside = [] := hq
  have hv0 : (s.poke ea w0).violates (ea + 1) = true := (s.violates_poke ea (ea + 1) w0).trans hv1
  rw [storeDouble, withAddress_of_ok hq h, withStores, withStore_of_allowed hq hv, withStores,
    withStore_of_violation hq0 hv0]

/-- The first violating word of a list stops the stores, the words before it standing (R85). -/
theorem withStores_of_first_violation {a : Addr} {n : Nat} (l : List Word) (hq : s.inside = []) (hn : n < l.length)
    (hl : l.length ≤ 2 ^ 18) (hbefore : ∀ k, k < n → s.violates (a + BitVec.ofNat 18 k) = false)
    (hv : s.violates (a + BitVec.ofNat 18 n) = true) (k : State → Result) :
    ∃ t, withStores a l s k = .next (takeTrap .protectViolation t) ∧ OnlyStorage s t ∧ Stored s t a (l.take n) := by
  have htake : (l.take n).length = n := List.length_take_of_le hn.le
  have hsplit : l = l.take n ++ l[n] :: l.drop (n + 1) := by
    rw [← List.drop_eq_getElem_cons hn, List.take_append_drop]
  obtain ⟨t, ht, hstored⟩ := withStores_of_violation (l.take n) l[n] (l.drop (n + 1)) s a hq (by omega)
    (fun j hj => hbefore j (by omega)) (by rwa [htake]) k
  exact ⟨t, by rwa [← hsplit] at ht, hstored⟩

theorem execScpu_of_first_violation {n : Nat} (hq : s.inside = []) (h : effectiveAddress .single o s = .ok ea)
    (hbefore : ∀ k, k < n → s.violates (ea + BitVec.ofNat 18 k) = false)
    (hv : s.violates (ea + BitVec.ofNat 18 n) = true) (hn : n < 2 + o.t1.toNat / 2) :
    ∃ t, execScpu o s = .next (takeTrap .protectViolation t) ∧ OnlyStorage s t ∧
      Stored s t ea ((scpuBlock s o.t1.toNat (packIndicators s)).take n) := by
  have ht1 : o.t1.toNat < 16 := o.t1.isLt
  have hlen := savedProcessor_length s o.t1.toNat
  rw [execScpu, withAddress_of_ok hq h, ← savedProcessor_eq]
  exact withStores_of_first_violation _ hq (by omega) (by omega) hbefore hv _

/-- SMX reads and replaces its first word before it stores the pairs (R340). -/
theorem execSmx_of_first_violation {n : Nat} {w : Word} (hq : s.inside = [])
    (h : effectiveAddress .single o s = .ok ea)
    (hbefore : ∀ k, k < n → s.violates (ea + BitVec.ofNat 18 k) = false)
    (hv : s.violates (ea + BitVec.ofNat 18 n) = true) (hw : s.load ea = some w) (ht : o.t1 ≠ 0)
    (hn : n < 1 + o.t1.toNat / 2) :
    ∃ t, execSmx o s = .next (takeTrap .protectViolation t) ∧ OnlyStorage s t ∧
      Stored s t ea ((smxBlock s o.t1.toNat w).take n) := by
  have ht1 : o.t1.toNat < 16 := o.t1.isLt
  have hlen := indexPairs_length s o.t1.toNat
  rw [execSmx, withAddress_of_ok hq h, if_neg ht]
  cases n with
  | zero =>
    rw [BitVec.add_zero] at hv
    exact ⟨s, withUpdate_of_violation hq hw hv, rfl, fun k hk => by simp at hk, fun _ _ => rfl⟩
  | succ m =>
    have hfirst : s.violates ea = false := by simpa using hbefore 0 (by omega)
    rw [withUpdate_of_allowed hq hw hfirst]
    obtain ⟨t, hexec, honly, hstored⟩ := withStores_of_first_violation (s := s.poke ea (withRight (s.x 1) w))
      (a := ea + 1) (n := m) (indexPairs s o.t1.toNat) hq (by omega) (by omega)
      (fun k hk => by rw [State.violates_poke, ← addr_succ]; exact hbefore (k + 1) (by omega))
      (by rwa [State.violates_poke, ← addr_succ]) .next
    refine ⟨t, hexec, (onlyStorage_poke s ea _).trans honly, ?_⟩
    rw [smxBlock_eq, List.take_succ_cons]
    exact stored_cons (by simp only [List.length_take]; omega) hstored

end

/-- Settles O15: each instruction is one of the ways of storing, and each way traps on its first violating word. -/
theorem storesTrapOutsideBounds : Obligations.StoresTrapOutsideBounds := by
  unfold Obligations.StoresTrapOutsideBounds
  intro o s ea hq
  refine ⟨fun h hv => ⟨?_, fun w hw => ?_⟩, fun h hv hv1 => ?_, fun h => ⟨fun hv w hw => ?_, ?_⟩⟩
  · have hstore := storeOperand_of_violation hq h hv
    have hdouble := storeDouble_of_first_violation hq h hv
    simp only [List.forall_mem_cons]
    exact ⟨hstore _, hstore _, hstore _, hstore _, hstore _, hstore _, hstore _, hdouble _ _, hdouble _ _,
      hdouble _ _, List.forall_mem_nil _⟩
  · have hupdate := updateOperand_of_violation hq h hw hv
    have htsl := execTsl_of_violation hq h hw hv
    simp only [List.forall_mem_cons]
    exact ⟨hupdate _, hupdate _, hupdate _, hupdate _, hupdate _, hupdate _, hupdate _, hupdate _, hupdate _,
      hupdate _, htsl, List.forall_mem_nil _⟩
  · have hdouble := storeDouble_of_second_violation hq h hv hv1
    simp only [List.forall_mem_cons]
    rw [← Acc.logical_eq]
    exact ⟨hdouble _ _, hdouble _ _, hdouble _ _, List.forall_mem_nil _⟩
  · have hupdate := updateIndexOperand_of_violation hq h hw hv
    simp only [List.forall_mem_cons]
    exact ⟨hupdate _, hupdate _, hupdate _, hupdate _, List.forall_mem_nil _⟩
  · refine fun n hbefore hv => ⟨fun hn => ?_, fun w hw ht hn => ?_⟩
    · obtain ⟨u, hexec, honly, hstored⟩ := execScpu_of_first_violation hq h hbefore hv hn
      exact ⟨u, packIndicators s, hexec, honly, indicatorHalf_packIndicators s, hstored⟩
    · exact execSmx_of_first_violation hq h hbefore hv hw ht hn

end Sys2Proof.Machine
end

section
/-! A channel's step, phase by phase (R466), and what a channel's condition leaves pending (R467, R468). -/

namespace Sys2Proof.Machine

/-! ## Conditions held as pending -/

/-- A condition sets the pending bit of its kind exactly when it is enabled (R468). -/
theorem Channel.note_of_kind (c : Channel) (b : EnableBit) :
    c.note b = c.setPending b.kind (c.pending b.kind || c.enabled b) := by
  unfold Channel.note
  split
  · next h => rw [h, Bool.or_true]
  · next h =>
    rw [Bool.eq_false_of_not_eq_true h, Bool.or_false]
    cases b <;> rfl

@[simp] theorem Channel.note_chain (c : Channel) :
    c.note .chain = { c with pendingAttention := c.pendingAttention || c.enabled .chain } := c.note_of_kind .chain

@[simp] theorem Channel.note_ending (c : Channel) :
    c.note .ending = { c with pendingEnd := c.pendingEnd || c.enabled .ending } := c.note_of_kind .ending

@[simp] theorem Channel.note_attentionNotInUse (c : Channel) :
    c.note .attentionNotInUse =
      { c with pendingAttention := c.pendingAttention || c.enabled .attentionNotInUse } :=
  c.note_of_kind .attentionNotInUse

/-- The unusual conditions a control unit reports share one pending bit (R467). -/
theorem Channel.noteConditions_eq (c : Channel) (r : Conditions) :
    c.noteConditions r =
      { c with
        pendingUnusual :=
          c.pendingUnusual || ((r.dataError || r.exceptional || r.intervention) && c.enabled .unusualEnd) ||
            (r.incorrectLength && c.enabled .incorrectLength) } := by
  have hnote (c : Channel) (b : EnableBit) (hb : b.kind = .unusualEnd) (p : Bool) :
      (if p = true then c.note b else c) = { c with pendingUnusual := c.pendingUnusual || (p && c.enabled b) } := by
    cases p
    · simp
    · rw [if_pos rfl, c.note_of_kind b, hb]; rfl
  dsimp only [Channel.noteConditions]
  rw [hnote c .unusualEnd rfl, hnote _ .incorrectLength rfl]
  rfl

/-- A disconnection notes the attention that has waited for it (R465, R467 b). -/
theorem Channel.disconnect_eq (c : Channel) :
    c.disconnect =
      { c with
        phase := .idle, attentionWaiting := false
        pendingAttention := c.pendingAttention || (c.attentionWaiting && c.enabled .attentionNotInUse) } := by
  unfold Channel.disconnect
  dsimp only
  rw [Channel.note_attentionNotInUse]
  cases c.attentionWaiting with
  | true => rfl
  | false => rw [if_neg Bool.false_ne_true, Bool.false_and, Bool.or_false]

/-- Completion with an unusual condition disconnects (R465). -/
theorem Channel.completed_of_unusual {r : DeviceReply} (c : Channel) (cmd : Command)
    (h : r.conditions.any = true) :
    c.completed cmd r = ({ c with status := r.status }.noteConditions r.conditions).disconnect := if_pos h

/-- A halt request, or a command without the Advance flag, ends the sequence (R446, R465). -/
theorem Channel.completed_of_end {r : DeviceReply} {c : Channel} {cmd : Command} (h : r.conditions.any = false)
    (hend : c.haltRequest = true ∨ cmd.flags.advance = false) :
    c.completed cmd r = ({ c with status := r.status }.note .ending).disconnect := by
  unfold Channel.completed
  rw [h, if_neg Bool.false_ne_true]
  rcases hend with hhalt | hadvance
  · exact if_pos hhalt
  · rw [hadvance, if_neg Bool.false_ne_true, ite_self]

/-! ## The step of the acting channel, by its phase -/

section
variable {s : State} {r : DeviceReply} {cmd : Command} {chain off : Bool} {cur : Option Command} {w : Word}

theorem channelStep_of_fetch (hp : (s.channel s.acting).phase = .fetch cur)
    (hw : s.load (s.channel s.acting).lc = some w) :
    channelStep r s =
      .next (s.acts fun c => { c with lc := c.lc + 1, phase := .decode cur w }) := by
  rw [channelStep, hp]
  exact readWord_of_load hw

theorem channelStep_of_unassigned (hp : (s.channel s.acting).phase = .decode cur w)
    (hd : decodeChannel w = none) :
    channelStep r s =
      .next (s.enter (if cur = none ∧ isCommand w = false then .fetch none else .environment)) := by
  have hcur : s.currentCommand = cur := by rw [State.currentCommand, hp]; rfl
  have hstep : channelStep r s = channelDecode w s := by rw [channelStep, hp]
  have hcond : (!isCommand w && cur.isNone) = true ↔ cur = none ∧ isCommand w = false := by
    simp [and_comm]
  simp only [hstep, channelDecode, hd, unassignedWord, hcur, hcond]
  split <;> rfl

theorem channelStep_of_transmit (hp : (s.channel s.acting).phase = .transmit cmd chain off) :
    channelStep r s = transmitStep cmd chain off r s := by rw [channelStep, hp]

theorem channelStep_of_complete (hp : (s.channel s.acting).phase = .complete cmd) :
    channelStep r s = .next (s.acts fun c => c.completed cmd r) := by rw [channelStep, hp]

/-- A word count of zero under a chaining control word chains (R464). -/
theorem transmitStep_of_chain (he : r.endSignal = false) (hz : (s.channel s.acting).wc = 0) :
    transmitStep cmd true off r s = .next ((s.acts fun c => c.note .chain).enter (.fetch (some cmd))) := by
  rw [transmitStep, he, if_neg Bool.false_ne_true, if_pos hz, if_pos rfl]

theorem transmitStep_of_word (he : r.endSignal = false) (hz : (s.channel s.acting).wc ≠ 0) :
    transmitStep cmd chain off r s = transmitWord cmd.operation off r s := by
  rw [transmitStep, he, if_neg Bool.false_ne_true, if_neg hz]

theorem nextDataAddress_eq (op : UnitOperation) (da : Addr) (r : DeviceReply) :
    nextDataAddress op da r = if op = .readBackward then r.nextAddress else da + 1 := by
  cases op <;> rfl

variable {op : UnitOperation}

theorem storesData_of_input (h : op = .read ∨ op = .readBackward ∨ op = .sense) : op.storesData = true := by
  rcases h with rfl | rfl | rfl <;> rfl

theorem storesData_of_output (h : op = .write ∨ op = .control) : op.storesData = false := by
  rcases h with rfl | rfl <;> rfl

/-- Under no transmission the word is counted, whatever its address (R462). -/
theorem transmitWord_of_off (h : op.storesData = true) :
    transmitWord op true r s = .next (countWord op r s) := by
  rw [transmitWord, if_pos h, if_pos rfl]

/-- A violating store is not made and the channel is the environment's (R83). -/
theorem transmitWord_of_violation (h : op.storesData = true)
    (hv : s.channelViolates (s.channel s.acting).inhibit (s.channel s.acting).da = true) :
    transmitWord op false r s = .next (s.enter .environment) := by
  rw [transmitWord, if_pos h, if_neg Bool.false_ne_true, if_pos hv]

theorem transmitWord_of_stored (h : op.storesData = true)
    (hv : s.channelViolates (s.channel s.acting).inhibit (s.channel s.acting).da = false) :
    transmitWord op false r s = .next (countWord op r (s.poke (s.channel s.acting).da r.word)) := by
  rw [transmitWord, if_pos h, if_neg Bool.false_ne_true, hv, if_neg Bool.false_ne_true]

theorem transmitWord_of_sent (h : op.storesData = false) (hw : s.load (s.channel s.acting).da = some w) :
    transmitWord op off r s =
      .next (countWord op r { s with outbox := .word s.acting w :: s.outbox }) := by
  rw [transmitWord, h, if_neg Bool.false_ne_true, readWord_of_load hw]

end

/-- What a step stores is not moved by the count that follows it. -/
theorem Stored.countWord {s t : State} {a : Addr} {ws : List Word} (op : UnitOperation) (r : DeviceReply)
    (h : Stored s t a ws) : Stored s (countWord op r t) a ws := by
  have hload : ∀ b, (Machine.countWord op r t).load b = t.load b := t.acts_load _
  simpa only [Stored, hload] using h

/-- Settles O52: the phase says which step it is; a transmission is a word counted after its move, a completion the
conditions noted and the disconnection. -/
theorem channelTransmission : Obligations.ChannelTransmission := by
  unfold Obligations.ChannelTransmission
  rintro s r c cmd chain off rfl
  refine ⟨fun cur w hp hw => channelStep_of_fetch hp hw, fun cur w hp hd => channelStep_of_unassigned hp hd,
    fun hp => ⟨?_, ?_⟩, ?_⟩
  · rintro he hz rfl
    rw [channelStep_of_transmit hp, transmitStep_of_chain he hz]
    simp [State.enter, State.acts, State.setChannel_setChannel]
  · rintro he hz _ rfl _ rfl
    rw [← nextDataAddress_eq, channelStep_of_transmit hp, transmitStep_of_word he hz]
    refine ⟨fun hin => ?_, fun hout w hw => transmitWord_of_sent (storesData_of_output hout) hw⟩
    have hop := storesData_of_input hin
    refine ⟨?_, ?_, ?_⟩
    · rintro rfl
      exact transmitWord_of_off hop
    · rintro rfl hv
      exact transmitWord_of_violation hop hv
    · rintro rfl hv
      exact ⟨_, transmitWord_of_stored hop hv, rfl, (stored_poke s _ r.word).countWord _ r⟩
  · rintro hp _ rfl
    rw [channelStep_of_complete hp]
    refine ⟨fun hany => ?_, fun hany hend => ?_⟩
    · rw [State.acts, Channel.completed_of_unusual _ _ hany, Channel.noteConditions_eq, Channel.disconnect_eq]
      rfl
    · rw [State.acts, Channel.completed_of_end hany hend, Channel.note_ending, Channel.disconnect_eq]
      rfl

end Sys2Proof.Machine
end

section
/-! Encodings of channel words (R450, R451, R457, R458): a word is the fields it is put together from, read back one
by one, and the bits that tell the operations apart are not those of the modifiers. -/

namespace Sys2Proof.Machine

/-! ## A word from its own fields -/

theorem ofBool_getLsbD {n : Nat} (x : BitVec n) (k : Nat) : BitVec.ofBool (x.getLsbD k) = x.extractLsb' k 1 := by
  ext i hi
  obtain rfl : i = 0 := by omega
  simp

/-- Adjacent runs of positions, put side by side: the lower begins at `start` and has `b` positions, the higher has
`a`. -/
theorem extract_append {n : Nat} (x : BitVec n) (start a b : Nat) :
    x.extractLsb' (start + b) a ++ x.extractLsb' start b = x.extractLsb' start (a + b) :=
  BitVec.extractLsb'_append_extractLsb'_eq_extractLsb' rfl

@[simp] theorem assemble_fields (w : Word) : assemble (operationField w) (operandField w) = w := by
  simp only [assemble, operationField, operandField, ofBool_getLsbD]
  rw [extract_append w 26 9 1, extract_append w 22 10 4, extract_append w 18 14 4, extract_append w 0 18 18]
  exact BitVec.extractLsb'_eq_self

theorem flagsField_bits (w : Word) : (flagsField w).bits = w.extractLsb' 18 6 := by
  simp only [CmdFlags.bits, flagsField, ofBool_getLsbD]
  rw [extract_append w 22 1 1, extract_append w 21 2 1, extract_append w 20 3 1, extract_append w 19 4 1,
    extract_append w 18 5 1]
  rfl

@[simp] theorem assembleCommand_fields (w : Word) :
    assembleCommand (w.extractLsb' 24 12) (flagsField w) (rightHalf w) = w := by
  rw [assembleCommand, flagsField_bits, rightHalf, extract_append w 18 12 6, extract_append w 0 18 18]
  exact BitVec.extractLsb'_eq_self

@[simp] theorem assembleControlWord_fields (w : Word) :
    assembleControlWord (w.extractLsb' 33 3) (w.extractLsb' 18 15) (rightHalf w) = w := by
  rw [assembleControlWord, rightHalf, extract_append w 18 3 15, extract_append w 0 18 18]
  exact BitVec.extractLsb'_eq_self

/-! ## The fields of a command and of a data control word -/

section
variable (opn : BitVec 12) (f : CmdFlags) (y : Addr)

theorem extract_assembleCommand {k n : Nat} (h : 24 ≤ k) :
    (assembleCommand opn f y).extractLsb' k n = opn.extractLsb' (k - 24) n := by
  rw [assembleCommand, BitVec.cast_eq, BitVec.extractLsb'_append_eq_of_le (by omega),
    BitVec.extractLsb'_append_eq_of_le (by omega), show k - 18 - 6 = k - 24 by omega]

theorem getLsbD_assembleCommand {k : Nat} (h : 24 ≤ k) :
    (assembleCommand opn f y).getLsbD k = opn.getLsbD (k - 24) := by
  rw [assembleCommand, BitVec.getLsbD_cast, BitVec.getLsbD_append, BitVec.getLsbD_append, if_neg (by omega),
    if_neg (by omega), show k - 18 - 6 = k - 24 by omega]

@[simp] theorem flagsField_assembleCommand : flagsField (assembleCommand opn f y) = f := by
  obtain ⟨spare, sixBit, bcd, advance, indirect, immediate⟩ := f
  simp only [flagsField, assembleCommand, CmdFlags.bits, BitVec.getLsbD_cast, BitVec.getLsbD_append,
    BitVec.getLsbD_ofBool]
  rfl

@[simp] theorem rightHalf_assembleCommand : rightHalf (assembleCommand opn f y) = y := by
  rw [rightHalf, assembleCommand, BitVec.cast_eq, BitVec.extractLsb'_append_eq_of_add_le (by omega)]
  exact BitVec.extractLsb'_eq_self

end

section
variable (opn : BitVec 3) (c : BitVec 15) (y : Addr)

@[simp] theorem extract_assembleControlWord : (assembleControlWord opn c y).extractLsb' 33 3 = opn := by
  rw [assembleControlWord, BitVec.cast_eq, BitVec.extractLsb'_append_eq_of_le (by omega),
    BitVec.extractLsb'_append_eq_of_le (by omega)]
  exact BitVec.extractLsb'_eq_self

@[simp] theorem count_assembleControlWord : (assembleControlWord opn c y).extractLsb' 18 15 = c := by
  rw [assembleControlWord, BitVec.cast_eq, BitVec.extractLsb'_append_eq_of_le (by omega),
    BitVec.extractLsb'_append_eq_of_add_le (by omega)]
  exact BitVec.extractLsb'_eq_self

@[simp] theorem rightHalf_assembleControlWord : rightHalf (assembleControlWord opn c y) = y := by
  rw [rightHalf, assembleControlWord, BitVec.cast_eq, BitVec.extractLsb'_append_eq_of_add_le (by omega)]
  exact BitVec.extractLsb'_eq_self

end

/-! ## A control unit's command: ones, modifier bits, operation bits -/

section
variable {k n : Nat} (m : BitVec k) (t : BitVec n) (h : 4 + k + n = 12) (f : CmdFlags) (y : Addr)

/-- The word of a control unit operation with modifier bits `m` and operation bits `t` (R451). -/
def unitCommand : Word := assembleCommand (((0b1110 : BitVec 4) ++ m ++ t).cast h) f y

theorem flagsField_unitCommand : flagsField (unitCommand m t h f y) = f := flagsField_assembleCommand _ f y

theorem rightHalf_unitCommand : rightHalf (unitCommand m t h f y) = y := rightHalf_assembleCommand _ f y

theorem modifier_unitCommand {a : Nat} (ha : a = 24 + n) : (unitCommand m t h f y).extractLsb' a k = m := by
  rw [unitCommand, extract_assembleCommand _ f y (by omega)]
  ext i hi
  simp only [BitVec.getElem_extractLsb', BitVec.getLsbD_cast, BitVec.getLsbD_append]
  rw [if_neg (by omega), if_pos (by omega), show a - 24 + i - n = i by omega, BitVec.getLsbD_eq_getElem hi]

theorem operation_unitCommand {a b : Nat} (ha : 24 ≤ a) (hb : a + b ≤ 24 + n) :
    (unitCommand m t h f y).extractLsb' a b = t.extractLsb' (a - 24) b := by
  rw [unitCommand, extract_assembleCommand _ f y ha]
  ext i hi
  simp only [BitVec.getElem_extractLsb', BitVec.getLsbD_cast, BitVec.getLsbD_append]
  rw [if_pos (by omega)]

/-- A channel looks at the positions of the word's control unit operation (R451). -/
theorem decodeChannel_unitCommand (hn : 0 < n) :
    decodeChannel (unitCommand m t h f y) = decodeControlUnit (unitCommand m t h f y) := by
  have hones : isCommand (unitCommand m t h f y) = true :=
    Laws.EncodedOperation.command_word (Laws.EncodedOperation.modified_word h)
  have hunit : (unitCommand m t h f y).getLsbD 32 = false := by
    rw [unitCommand, getLsbD_assembleCommand _ f y (by omega), BitVec.getLsbD_cast, BitVec.getLsbD_append,
      BitVec.getLsbD_append, if_neg (by omega), if_neg (by omega), show 32 - 24 - n - k = 0 by omega]
    rfl
  exact (if_pos hones).trans (if_pos hunit)

/-- A word whose first positions say control unit and whose operation bits are `t` is that control unit's. -/
theorem unitCommand_fields {w : Word} {a : Nat} (ha : a = 24 + n) (hw : w.extractLsb' 32 4 = 0b1110)
    (ht : w.extractLsb' 24 n = t) : unitCommand (w.extractLsb' a k) t h (flagsField w) (rightHalf w) = w := by
  have hop : ((0b1110 : BitVec 4) ++ w.extractLsb' a k ++ t).cast h = w.extractLsb' 24 12 := by
    rw [← hw, ← ht]
    ext i hi
    simp only [BitVec.getElem_cast, BitVec.getElem_append, BitVec.getElem_extractLsb']
    split_ifs
    · rfl
    · congr 1; omega
    · congr 1; omega
  rw [unitCommand, hop, assembleCommand_fields]

end

/-! ## What a channel reads of an encoded word, and the word it has read -/

theorem decodeChannel_assembleCommand {opn : BitVec 12} (f : CmdFlags) (y : Addr) (h : opn.extractLsb' 9 3 = 7) :
    decodeChannel (assembleCommand opn f y) = decodeCommand (assembleCommand opn f y) :=
  if_pos (Laws.EncodedOperation.command_word h)

theorem decodeChannel_assembleControlWord {opn : BitVec 3} (c : BitVec 15) (y : Addr) (h : opn ≠ 7) :
    decodeChannel (assembleControlWord opn c y) = decodeControlWord (assembleControlWord opn c y) :=
  if_neg (Bool.eq_false_iff.1 (Laws.EncodedOperation.control_word h))

/-- A channel reads the word of a channel command or data control word as that instruction (R450, R457). -/
theorem decodeChannel_encode {i : Instr} (h : i.isCpu = false) : decodeChannel (encode i) = some i := by
  cases i with
  | chSense m f y | chReadBackward m f y | chWrite m f y | chRead m f y | chControl m f y =>
    refine (decodeChannel_unitCommand m _ rfl f y (by omega)).trans ?_
    simp [decodeControlUnit, operation_unitCommand, modifier_unitCommand, flagsField_unitCommand,
      rightHalf_unitCommand]
  | chTch f y | chXec f y =>
    refine (decodeChannel_assembleCommand f y rfl).trans ?_
    simp [-BitVec.getLsbD_eq_getElem, decodeCommand, extract_assembleCommand, getLsbD_assembleCommand]
  | dcwTcw c y | dcwTcwInd c y | dcwCcw c y | dcwCcwn c y | dcwCcwInd c y =>
    refine (decodeChannel_assembleControlWord c y (by decide)).trans ?_
    simp [decodeControlWord]
  | _ => cases h

/-- The first four positions of a command: its ones and the bit that tells a control unit's from a channel's. -/
theorem first_of_isCommand {w : Word} {b : Bool} (hc : isCommand w = true) (hb : w.getLsbD 32 = b) :
    w.extractLsb' 32 4 = (7 : BitVec 3) ++ BitVec.ofBool b := by
  have hones : w.extractLsb' 33 3 = 7 := by simpa [isCommand] using hc
  rw [← hones, ← hb, ofBool_getLsbD, extract_append w 32 3 1]

theorem encode_of_decodeControlUnit {w : Word} {i : Instr} (hw : w.extractLsb' 32 4 = 0b1110)
    (h : decodeControlUnit w = some i) : encode i = w ∧ i.isCpu = false := by
  have hzero : ∀ b : BitVec 2, b ≠ 1 → b ≠ 2 → b ≠ 3 → b = 0 := by decide
  dsimp only [decodeControlUnit] at h
  split_ifs at h with hwrite hread hcontrol hsense hback <;> cases h
  · exact ⟨unitCommand_fields _ rfl rfl hw hwrite, rfl⟩
  · exact ⟨unitCommand_fields _ rfl rfl hw hread, rfl⟩
  · exact ⟨unitCommand_fields _ rfl rfl hw hcontrol, rfl⟩
  · refine ⟨unitCommand_fields _ rfl rfl hw ?_, rfl⟩
    rw [← extract_append w 24 2 2, hsense, hzero _ hwrite hread hcontrol]
    rfl
  · refine ⟨unitCommand_fields _ rfl rfl hw ?_, rfl⟩
    rw [← extract_append w 24 2 2, hback, hzero _ hwrite hread hcontrol]
    rfl

/-- A word whose first positions say channel and whose positions 4-11 are `c` is that command of the channel's own. -/
theorem channelCommand_fields {w : Word} {c : BitVec 8} {opn : BitVec 12} (hop : (0b1111 : BitVec 4) ++ c = opn)
    (hw : w.extractLsb' 32 4 = 0b1111) (hc : w.extractLsb' 24 8 = c) :
    assembleCommand opn (flagsField w) (rightHalf w) = w := by
  rw [← hop, ← hw, ← hc, extract_append w 24 4 8]
  exact assembleCommand_fields w

theorem encode_of_decodeCommand {w : Word} {i : Instr} (hc : isCommand w = true) (h : decodeCommand w = some i) :
    encode i = w ∧ i.isCpu = false := by
  unfold decodeCommand at h
  split_ifs at h with hunit htch hxec
  · exact encode_of_decodeControlUnit (first_of_isCommand hc hunit) h
  all_goals have htop := first_of_isCommand hc (Bool.eq_true_of_not_eq_false hunit)
  · cases h
    exact ⟨channelCommand_fields rfl htop htch, rfl⟩
  · cases h
    exact ⟨channelCommand_fields rfl htop hxec, rfl⟩

theorem encode_of_decodeControlWord {w : Word} {i : Instr} (h : decodeControlWord w = some i) :
    encode i = w ∧ i.isCpu = false := by
  dsimp only [decodeControlWord] at h
  split_ifs at h with hop hop hop hop hop <;> cases h <;>
    exact ⟨(congrArg (assembleControlWord · _ _) hop.symm).trans (assembleControlWord_fields w), rfl⟩

/-- The word a channel has read as an instruction is that instruction's word (R450, R457). -/
theorem encode_of_decodeChannel {w : Word} {i : Instr} (h : decodeChannel w = some i) :
    encode i = w ∧ i.isCpu = false := by
  unfold decodeChannel at h
  split at h
  · next hc => exact encode_of_decodeCommand hc h
  · exact encode_of_decodeControlWord h

end Sys2Proof.Machine
end

section
/-! Encodings of processor words (R101, R102, R111, R112, R115): a row of the operation tables is found under its
own code, and the instruction it builds has that row's word. -/

namespace Sys2Proof.Machine

/-! ## Rows are found under their own codes -/

/-- The numbers of the list are new, each to those before it and to the bits of `seen`: the numbers met are kept as
the bits of one number, so that a long list is read once. -/
def allNew : Nat → List Nat → Bool
  | _, [] => true
  | seen, c :: l => !seen.testBit c && allNew (seen ||| 1 <<< c) l

theorem nodup_of_allNew {l : List Nat} {seen : Nat} (h : allNew seen l = true) :
    l.Nodup ∧ ∀ c ∈ l, seen.testBit c = false := by
  induction l generalizing seen with
  | nil => exact ⟨.nil, List.forall_mem_nil _⟩
  | cons c l ih =>
    obtain ⟨hc, hl⟩ := Bool.and_eq_true_iff.1 h
    obtain ⟨hnodup, hnew⟩ := ih hl
    have hbits : ∀ d ∈ l, seen.testBit d = false ∧ c ≠ d := by
      simpa [Nat.testBit_or, Nat.one_shiftLeft, Nat.testBit_two_pow] using hnew
    refine ⟨List.nodup_cons.2 ⟨fun hm => (hbits c hm).2 rfl, hnodup⟩, List.forall_mem_cons.2 ⟨?_, ?_⟩⟩
    · simpa using hc
    · exact fun d hd => (hbits d hd).1

theorem operationCodes_allNew : allNew 0 (operationCodes.map fun r => r.1.toNat) = true := by decide

/-- No two rows have the same operation code (R112, R115). -/
theorem operationCodes_nodup : (operationCodes.map Prod.fst).Nodup := by
  have hn := (nodup_of_allNew operationCodes_allNew).1
  rw [← Function.comp_def BitVec.toNat Prod.fst, ← List.map_map] at hn
  exact hn.of_map

/-- Rows of distinct codes are each found under their own. -/
theorem lookup_of_mem {l : List CodeRow} {r : CodeRow} (hn : (l.map Prod.fst).Nodup) (h : r ∈ l) :
    l.lookup r.1 = some r.2 := by
  induction l with
  | nil => cases h
  | cons head l ih =>
    rw [List.map_cons, List.nodup_cons] at hn
    obtain ⟨hhead, hl⟩ := hn
    rw [List.lookup_cons]
    rcases List.mem_cons.1 h with rfl | hm
    · rw [beq_self_eq_true]
    · have hne : r.1 ≠ head.1 := fun e => hhead (e ▸ List.mem_map_of_mem hm)
      rw [beq_false_of_ne hne]
      exact ih hl hm

theorem codeRow_mem_of_lookup {l : List CodeRow} {op : BitVec 9} {build : Operand → Instr}
    (h : l.lookup op = some build) : (op, build) ∈ l := by
  obtain ⟨before, after, rfl, _⟩ := List.lookup_eq_some_iff.1 h
  simp

theorem codeTables_subset :
    wordTransmissionCodes ⊆ operationCodes ∧ fixedPointCodes ⊆ operationCodes ∧
      floatingPointCodes ⊆ operationCodes ∧ shiftingCodes ⊆ operationCodes ∧ controlCodes ⊆ operationCodes ∧
      indexCodes ⊆ operationCodes ∧ logicalCodes ⊆ operationCodes ∧ senseIndicatorCodes ⊆ operationCodes ∧
      specialPurposeCodes ⊆ operationCodes ∧ inputOutputCodes ⊆ operationCodes := by
  simp only [← and_assoc]
  simp only [← List.append_subset]
  exact List.Subset.refl operationCodes

/-! ## Decoding the word of a row -/

section
variable {op : BitVec 9} {build : Operand → Instr} {o : Operand} {ea : Addr}

theorem decodeCpu_of_code {t : List CodeRow} (ht : t ⊆ operationCodes) (hs : selectorTable op = none)
    (h : t.lookup op = some build) : decodeCpu (assemble op o) ea = .ok (build o) := by
  have hl : operationCodes.lookup op = some build :=
    lookup_of_mem operationCodes_nodup (ht (codeRow_mem_of_lookup h))
  simp only [decodeCpu, operationField_assemble, operandField_assemble, hs, hl]

theorem decodeCpu_of_selector {table : List SelectorRow} (hs : selectorTable op = some table)
    (h : table.lookup ea = some build) : decodeCpu (assemble op o) ea = .ok (build o) := by
  simp only [decodeCpu, operationField_assemble, operandField_assemble, hs, h]

end

/-- Outside the 370 groups every instruction stands in the table of its chapter (R112, R115). -/
theorem decodeCpu_encode_of_ungrouped {i : Instr} (hc : i.isCpu = true) (hs : i.selectors = none) (ea : Addr) :
    decodeCpu (encode i) ea = .ok i := by
  obtain ⟨hword, hfixed, hfloating, hshifting, hcontrol, hindex, hlogical, hsense, hspecial, hio⟩ :=
    codeTables_subset
  cases i with
  | cla o | cal o | cls o | lla o | lra o | ldq o | dla o | dlld o | dldn o | sto o | slw o | stal o | star o
    | stan o | stq o | slq o | dst o | dlsf o | dstn o | stz o | stl o | xca o | xcl o | scpu o | rcpu o =>
    exact decodeCpu_of_code hword rfl rfl
  | add o | adm o | acl o | sub o | sbm o | mpy o | mpr o | imp o | vlm o | dvt o | idv o | vdt o =>
    exact decodeCpu_of_code hfixed rfl rfl
  | fad o | fam o | ufa o | uam o | fsb o | fsm o | ufs o | usm o | fmp o | ufm o | fdt o | fdh o | frd o | adxp o
    | dfad o | dfam o | dufa o | duam o | dfsb o | dfsm o | dufs o | dusm o | dfmp o | dufm o | dfdt o | dfrd o =>
    exact decodeCpu_of_code hfloating rfl rfl
  | als o | ars o | lls o | lrs o | lgl o | lgr o | rql o =>
    exact decodeCpu_of_code hshifting rfl rfl
  | nop o | hpr o | htr o | xec o | tra o | ttr o | tze o | tnz o | tpl o | tmi o | tzm o | tzp o | tgz o | tlz o
    | tov o | tno o | tqp o | tlq o | zet o | nzt o | cas o | las o | tsl o | smp o | ltmr o | stmr o | lrtc o
    | srtc o | ctr o | ptr o | scar o | cmon o =>
    exact decodeCpu_of_code hcontrol rfl rfl
  | axi o | axc o | pax o | pac o | pxa o | pxd o | pdc o | pcd o | pca o | sxa o | sxd o | sca o | scd o | lxa o
    | lxd o | lac o | ldc o | adxs o | adxd o | adxi o | sbxs o | sbxd o | sbxi o | pchx o | tsx o | txf o | txrh o
    | txnh o | txrl o | txnl o | txre o | txne o | lxs o | cxs o | cxd o | cxi o | xlf o | xlb o | smx o | lmx o =>
    exact decodeCpu_of_code hindex rfl rfl
  | ora o | ors o | ana o | ans o | era o | ers o | ados o =>
    exact decodeCpu_of_code hlogical rfl rfl
  | ldi o | sti o | pai o | pia o | oai o | osi o | ois o | ril o | rir o | sil o | sir o | ria o | ris o | iia o
    | iis o | iil o | iir o | oft o | ont o | rft o | rnt o | lft o | lnt o | laci o | saci o | lasi o | casi o =>
    exact decodeCpu_of_code hsense rfl rfl
  | flt o | fix o | cdec o | cbin o | sqxl o | sxar o | sqxt o | sxat o | sbp o =>
    exact decodeCpu_of_code hspecial rfl rfl
  | stc o | cht o | sch o | hch o | ict o | enb o =>
    exact decodeCpu_of_code hio rfl rfl
  | chSense m f y | chReadBackward m f y | chWrite m f y | chRead m f y | chControl m f y | chTch f y | chXec f y
    | dcwTcw c y | dcwTcwInd c y | dcwCcw c y | dcwCcwn c y | dcwCcwInd c y => cases hc
  | _ => cases hs

/-- In a 370 group each of an instruction's selectors leads to it (R111). -/
theorem decodeCpu_encode_of_grouped {i : Instr} {l : List Addr} {ea : Addr} (hs : i.selectors = some l)
    (hea : ea ∈ l) : decodeCpu (encode i) ea = .ok i := by
  cases i with
  | clm o | lbt o | chs o | ssp o | enk o | com o | etm o | rnd o | frn o | pbt o | ssm o | ltm o =>
    cases hs
    obtain rfl := List.mem_singleton.1 hea
    exact decodeCpu_of_selector rfl rfl
  | pse o =>
    cases hs
    have hrow : ∀ a ∈ [0o140, 0o141, 0o142, 0o143, 0o144, 0o161, 0o162, 0o163, 0o164, 0o165, 0o166],
        plusSelectors.lookup a = some Instr.pse := by
      simp [plusSelectors, List.lookup]
    exact decodeCpu_of_selector rfl (hrow ea hea)
  | mse o =>
    cases hs
    have hrow : ∀ a ∈ [0o141, 0o142, 0o143, 0o144], minusSelectors.lookup a = some Instr.mse := by
      simp [minusSelectors, List.lookup]
    exact decodeCpu_of_selector rfl (hrow ea hea)
  | _ => cases hs

/-- Decoding the word of an instruction, with an address that selects it, gives it back (R101, R111). -/
theorem decodeCpu_encode {i : Instr} {ea : Addr} (hc : i.isCpu = true) (hs : i.selectedBy ea = true) :
    decodeCpu (encode i) ea = .ok i := by
  unfold Instr.selectedBy at hs
  split at hs
  · next hnone => exact decodeCpu_encode_of_ungrouped hc hnone ea
  · next l hsome => exact decodeCpu_encode_of_grouped hsome (List.contains_iff_mem.1 hs)

/-! ## A row's instruction has the row's code -/

/-- The row's instruction, of any operand part, has the word of the row's code, and every address selects it. -/
def Assembles (r : CodeRow) : Prop :=
  ∀ o ea, encode (r.2 o) = assemble r.1 o ∧ (r.2 o).isCpu = true ∧ (r.2 o).selectedBy ea = true

theorem assembles_of_mem : ∀ r ∈ operationCodes, Assembles r := by
  simp only [operationCodes, wordTransmissionCodes, fixedPointCodes, floatingPointCodes, shiftingCodes, controlCodes,
    indexCodes, logicalCodes, senseIndicatorCodes, specialPurposeCodes, inputOutputCodes, List.forall_mem_append,
    List.forall_mem_cons, List.not_mem_nil, IsEmpty.forall_iff,
    implies_true, and_true]
  and_intros <;> exact fun _ _ => ⟨rfl, rfl, rfl⟩

/-- The row's instruction, of any operand part, has the word of the group's code, and the row's selector
selects it. -/
def AssemblesIn (op : BitVec 9) (r : SelectorRow) : Prop :=
  ∀ o, encode (r.2 o) = assemble op o ∧ (r.2 o).isCpu = true ∧ (r.2 o).selectedBy r.1 = true

theorem plusSelectors_assemble : ∀ r ∈ plusSelectors, AssemblesIn 0o370 r := by
  simp only [plusSelectors, List.forall_mem_cons, List.not_mem_nil, IsEmpty.forall_iff,
    implies_true, and_true]
  and_intros <;> exact fun _ => ⟨rfl, rfl, rfl⟩

theorem minusSelectors_assemble : ∀ r ∈ minusSelectors, AssemblesIn 0o770 r := by
  simp only [minusSelectors, List.forall_mem_cons, List.not_mem_nil, IsEmpty.forall_iff,
    implies_true, and_true]
  and_intros <;> exact fun _ => ⟨rfl, rfl, rfl⟩

theorem assemblesIn_of_selectorTable {op : BitVec 9} {table : List SelectorRow} (h : selectorTable op = some table) :
    ∀ r ∈ table, AssemblesIn op r := by
  unfold selectorTable at h
  split_ifs at h with hplus hminus <;> cases h
  · exact hplus ▸ plusSelectors_assemble
  · exact hminus ▸ minusSelectors_assemble

/-- The word the processor has read as an instruction is that instruction's word (R101, R111). -/
theorem encode_of_decodeCpu {w : Word} {ea : Addr} {i : Instr} (h : decodeCpu w ea = .ok i) :
    encode i = w ∧ i.isCpu = true ∧ i.selectedBy ea = true := by
  have hw : assemble (operationField w) (operandField w) = w := assemble_fields w
  unfold decodeCpu at h
  split at h
  · next table ht =>
    split at h
    · next build hl =>
      cases h
      have hrow := assemblesIn_of_selectorTable ht _ (mem_of_lookup hl) (operandField w)
      rwa [hw] at hrow
    · cases h
  · split at h
    · next build hl =>
      cases h
      have hrow := assembles_of_mem _ (codeRow_mem_of_lookup hl) (operandField w) ea
      rwa [hw] at hrow
    · cases h

/-! ## Table words -/

/-- What well-formedness asks of a processor instruction with an unmodified address: that the address selects it
(R111). -/
theorem selectedBy_of_wellFormed {i : Instr} (hc : i.isCpu = true) (hwf : i.wellFormed = true)
    (hp : (operandField (encode i)).isPlain = true) : i.selectedBy (operandField (encode i)).y = true := by
  have hok {o : Operand} (h : i.selectorOk o = true) (ho : operandField (encode i) = o) :
      i.selectedBy (operandField (encode i)).y = true := by
    rw [ho] at hp ⊢
    simpa [Instr.selectorOk, hp] using h
  cases i with
  | clm o | lbt o | chs o | ssp o | enk o | com o | etm o | rnd o | frn o | pse o | pbt o | ssm o | ltm o | mse o =>
    exact hok hwf (operandField_assemble _ o)
  | chSense m f y | chReadBackward m f y | chWrite m f y | chRead m f y | chControl m f y | chTch f y | chXec f y
    | dcwTcw c y | dcwTcwInd c y | dcwCcw c y | dcwCcwn c y | dcwCcwInd c y => cases hc
  | _ => rfl

/-- Every word is a table word, and its address field stands for its effective address (R104, R121). -/
theorem decodeTableWord_of_decodeCpu {w : Word} {i : Instr} (h : decodeCpu w (operandField w).y = .ok i) :
    decodeTableWord 40 w.toNat = some i := by
  have hw : ¬(40 < 40 ∨ 2 ^ 36 ≤ w.toNat) := by have := w.isLt; omega
  have hd : decodeCpu w (rightHalf w) = .ok i := h
  rw [decodeTableWord, if_neg hw, BitVec.ofNat_toNat, BitVec.setWidth_eq, hd]

/-! ## The obligations -/

/-- Settles O1: each word evaluated by its decoder. -/
theorem decodeWrittenWords : Obligations.DecodeWrittenWords := by
  unfold Obligations.DecodeWrittenWords
  exact ⟨rfl, rfl, rfl, rfl, rfl, rfl, rfl, rfl, rfl, rfl, rfl⟩

/-- Settles O2, from the round trip through the processor's decoder and that through the channel's. -/
theorem encodedInstructionsDecode : Obligations.EncodedInstructionsDecode := by
  unfold Obligations.EncodedInstructionsDecode
  exact ⟨fun i ea hc hs => decodeCpu_encode hc hs, fun i hc => decodeChannel_encode hc⟩

/-- Settles O3: a word is put together from the fields the decoders read, and the rows they find name its
operation. -/
theorem decodedWordsEncode : Obligations.DecodedWordsEncode := by
  unfold Obligations.DecodedWordsEncode
  exact ⟨fun w ea i h => encode_of_decodeCpu h, fun w i h => encode_of_decodeChannel h⟩

/-- Settles O4: the address field that stands for the effective address is one that selects the instruction. -/
theorem wellFormedTableWords : Obligations.WellFormedTableWords := by
  unfold Obligations.WellFormedTableWords
  intro i hwf hc hp
  exact decodeTableWord_of_decodeCpu (decodeCpu_encode hc (selectedBy_of_wellFormed hc hwf hp))

end Sys2Proof.Machine
end

section
/-! Effective addresses (R104-R106): an indirect chain is the orbit of its first address under one function, and in a
storage of 2^18 words an orbit that keeps its flags on for as many words keeps them on for ever. -/

namespace Sys2Proof.Machine

/-! ## Orbits in a finite set -/

/-- Whatever an orbit reaches it has reached before it has taken as many steps as there are points. -/
theorem exists_lt_card_iterate_eq {α : Type} [Fintype α] (f : α → α) (a : α) (n : ℕ) :
    ∃ k < Fintype.card α, f^[n] a = f^[k] a := by
  induction n using Nat.strong_induction_on with
  | _ n ih =>
    by_cases hn : n < Fintype.card α
    · exact ⟨n, hn, rfl⟩
    · obtain ⟨i, j, hij, he⟩ := Fintype.exists_ne_map_eq_of_card_lt
        (fun k : Fin (Fintype.card α + 1) => f^[k] a) (by simp)
      wlog hlt : i < j generalizing i j
      · exact this j i hij.symm he.symm (by omega)
      have hjump : f^[n] a = f^[n - j + i] a := by
        calc f^[n] a = f^[n - j] (f^[j] a) := by rw [← Function.iterate_add_apply]; congr 1; omega
          _ = f^[n - j + i] a := by rw [← he, ← Function.iterate_add_apply]
      rw [hjump]
      exact ih _ (by omega)

theorem card_addr : Fintype.card Addr = chainFuel := by
  rw [Fintype.card_congr BitVec.equivFin.toEquiv, Fintype.card_fin]
  rfl

/-! ## The chain of `chase` -/

variable {s : State} {a : Addr} {n : ℕ}

/-- The word at `a` has its flag on: the chain goes on from it (R106). -/
def ChainsAt (s : State) (a : Addr) : Prop := ∃ w, s.load a = some w ∧ (operandField w).f = true

/-- Where the chain goes on from `a`, if it does (R106). -/
def chainNext (s : State) (a : Addr) : Addr := directAddress .double (operandField ((s.load a).getD 0)) s

theorem chainNext_of_load {w : Word} (h : s.load a = some w) :
    chainNext s a = directAddress .double (operandField w) s := by rw [chainNext, h, Option.getD_some]

theorem chase_of_chainsAt (h : ChainsAt s a) : chase (n + 1) s a = chase n s (chainNext s a) := by
  obtain ⟨w, hw, hf⟩ := h
  rw [chainNext_of_load hw]
  simp [chase, hw, hf]

theorem chase_of_unwritten (h : s.load a = none) : chase (n + 1) s a = .error .unwrittenStorage := by
  simp [chase, h]

theorem chase_of_last {w : Word} (h : s.load a = some w) (hf : (operandField w).f = false) :
    chase (n + 1) s a = .ok (directAddress .double (operandField w) s) := by simp [chase, h, hf]

/-- Where the chain does not go on, it ends within one word, and not as an endless one. -/
theorem chase_of_not_chainsAt (h : ¬ChainsAt s a) :
    ∃ r : Except Fault Addr, r ≠ .error .endlessIndirectChain ∧ ∀ n, chase (n + 1) s a = r := by
  cases hw : s.load a with
  | none => exact ⟨_, by simp, fun n => chase_of_unwritten hw⟩
  | some w =>
    have hf : (operandField w).f = false := Bool.eq_false_of_not_eq_true fun hf => h ⟨w, hw, hf⟩
    exact ⟨_, by simp, fun n => chase_of_last hw hf⟩

/-- A chain is endless under a bound exactly when that many of its addresses, from the first on, have their flags
on. -/
theorem chase_endless_iff :
    chase n s a = .error .endlessIndirectChain ↔ ∀ k < n, ChainsAt s ((chainNext s)^[k] a) := by
  induction n generalizing a with
  | zero => exact ⟨fun _ k hk => absurd hk (Nat.not_lt_zero k), fun _ => rfl⟩
  | succ n ih =>
    rw [Nat.forall_lt_succ_left]
    by_cases h : ChainsAt s a
    · rw [chase_of_chainsAt h, ih]
      exact (and_iff_right h).symm
    · obtain ⟨r, hr, hn⟩ := chase_of_not_chainsAt h
      exact iff_of_false (hn n ▸ hr) fun ⟨h0, _⟩ => h h0

/-- The bound on the search loses no address (R106, D47). -/
theorem chase_chainFuel_endless_iff :
    chase chainFuel s a = .error .endlessIndirectChain ↔ ∀ n, chase n s a = .error .endlessIndirectChain := by
  refine ⟨fun h n => chase_endless_iff.2 fun k _ => ?_, fun h => h chainFuel⟩
  obtain ⟨j, hj, he⟩ := exists_lt_card_iterate_eq (chainNext s) a k
  rw [he]
  exact chase_endless_iff.1 h j (card_addr ▸ hj)

/-- A chain that has ended is not changed by a larger bound. -/
theorem chase_succ (h : chase n s a ≠ .error .endlessIndirectChain) : chase (n + 1) s a = chase n s a := by
  induction n generalizing a with
  | zero => exact absurd rfl h
  | succ n ih =>
    by_cases hc : ChainsAt s a
    · rw [chase_of_chainsAt hc] at h ⊢
      rw [chase_of_chainsAt hc, ih h]
    · obtain ⟨r, _, hn⟩ := chase_of_not_chainsAt hc
      rw [hn n, hn (n + 1)]

/-- Following a chain from one word further on, under the same bound, leads to the same end (R106). -/
theorem chase_chainFuel_of_chainsAt (h : ChainsAt s a) :
    chase chainFuel s a = chase chainFuel s (chainNext s a) := by
  have hstep : chase chainFuel s a = chase 262143 s (chainNext s a) := chase_of_chainsAt h
  by_cases he : chase 262143 s (chainNext s a) = .error .endlessIndirectChain
  · have hall := chase_chainFuel_endless_iff.1 (hstep.trans he) (chainFuel + 1)
    rw [hstep, he, ← hall, chase_of_chainsAt h]
  · rw [hstep]
    exact (chase_succ he).symm

/-! ## Effective addresses -/

section
variable {d : Indexing} {o : Operand}

theorem effectiveAddress_of_direct (h : o.f = false) : effectiveAddress d o s = .ok (directAddress d o s) := by
  simp [effectiveAddress, h]

theorem effectiveAddress_of_indirect (h : o.f = true) :
    effectiveAddress d o s = chase chainFuel s (directAddress d o s) := by
  simp [effectiveAddress, h]

theorem effectiveAddress_of_unwritten (h : o.f = true) (hw : s.load (directAddress d o s) = none) :
    effectiveAddress d o s = .error .unwrittenStorage := by
  rw [effectiveAddress_of_indirect h, chainFuel]
  exact chase_of_unwritten hw

/-- The word at an indirect address forms the effective address as a double-indexed instruction does (R106). -/
theorem effectiveAddress_of_word {w : Word} (h : o.f = true) (hw : s.load (directAddress d o s) = some w) :
    effectiveAddress d o s = effectiveAddress .double (operandField w) s := by
  rw [effectiveAddress_of_indirect h]
  cases hf : (operandField w).f with
  | false =>
    rw [effectiveAddress_of_direct hf, chainFuel]
    exact chase_of_last hw hf
  | true => rw [effectiveAddress_of_indirect hf, chase_chainFuel_of_chainsAt ⟨w, hw, hf⟩, chainNext_of_load hw]

end

/-- Settles O6: an indirect address is that of the next word of its chain, and the bound on the chain loses none. -/
theorem effectiveAddressForms : Obligations.EffectiveAddressForms := by
  unfold Obligations.EffectiveAddressForms
  refine ⟨fun s o => ?_, fun s a => chase_chainFuel_endless_iff⟩
  have hforms (d : Indexing) :
      (o.f = false → effectiveAddress d o s = .ok (directAddress d o s)) ∧
        (o.f = true → s.load (directAddress d o s) = none → effectiveAddress d o s = .error .unwrittenStorage) ∧
        ∀ w : Word, o.f = true → s.load (directAddress d o s) = some w →
          effectiveAddress d o s = effectiveAddress .double (operandField w) s :=
    ⟨effectiveAddress_of_direct, effectiveAddress_of_unwritten, fun _ => effectiveAddress_of_word⟩
  exact List.forall_mem_cons.2 ⟨hforms .double, List.forall_mem_cons.2 ⟨hforms .single, List.forall_mem_nil _⟩⟩

end Sys2Proof.Machine
end

section
/-! Word transmission (spec/40_word_transmission.md): what the loads leave in the registers, what the stores leave in
storage, and the blocks of SCPU, SMX, RCPU and LMX when none of their words violates. -/

namespace Sys2Proof.Machine

variable {s : State} {o : Operand} {ea : Addr} {w : Word}

/-! ## Words loaded as logical ones -/

theorem signOf_and (v w : Word) : signOf (v &&& w) = (signOf v && signOf w) := BitVec.msb_and

theorem magnitude_and (v w : Word) : magnitude (v &&& w) = magnitude v &&& magnitude w := BitVec.extractLsb'_and

/-- A half word in the right half of a zero word, loaded as a logical word, fills only positions 18-35. -/
theorem ofLogical_joinHalves_zero (h : Addr) :
    Acc.ofLogical (joinHalves 0 h) = Acc.make false false false (h.setWidth 35) := by
  have hbits (i : Nat) : (joinHalves 0 h).getLsbD i = h.getLsbD i := by
    rw [getLsbD_joinHalves]
    split
    · rfl
    · rw [BitVec.getLsbD_of_ge h i (by omega)]; exact BitVec.getLsbD_zero
  rw [Acc.ofLogical_eq]
  congr 1
  · rw [signOf_eq, hbits, BitVec.getLsbD_of_ge h 35 (by decide)]
  · refine BitVec.eq_of_getLsbD_eq fun i _ => ?_
    rw [getLsbD_magnitude, hbits, BitVec.getLsbD_setWidth]

/-- Settles O12: each load reads its word, or its two words, and leaves the register its rule gives. -/
theorem loads : Obligations.Loads := by
  unfold Obligations.Loads
  intro o s ea w hq h hw
  have hone {k} := withOperand_of_ok (k := k) hq h hw
  refine ⟨hone, ?cal, hone, ?lla, ?lra, hone, hone, ?laci, fun w1 hw1 => ?double⟩
  case cal => rw [← Acc.ofLogical_eq]; exact hone
  case lla => rw [← ofLogical_joinHalves_zero]; exact hone
  case lra => rw [← ofLogical_joinHalves_zero]; exact hone
  case laci => rw [← signOf_and, ← magnitude_and, ← Acc.ofLogical_eq]; exact hone
  case double =>
    have htwo {k} := withDoubleOperand_of_ok (k := k) hq h hw hw1
    refine ⟨htwo, ?_, htwo⟩
    rw [← Acc.ofLogical_eq]
    exact htwo

/-! ## Stores, none of which violates -/

/-- The result `r`, reached from `s`, is a next state in which the words `ws` stand from `a` on and nothing else has
changed. -/
def StoresOnly (s : State) (r : Result) (a : Addr) (ws : List Word) : Prop :=
  ∃ t, r = .next t ∧ OnlyStorage s t ∧ Stored s t a ws

theorem storesOnly_poke (s : State) (a : Addr) (w : Word) : StoresOnly s (.next (s.poke a w)) a [w] :=
  ⟨_, rfl, onlyStorage_poke s a w, stored_poke s a w⟩

/-- A word stored, and then more words from the next address on. -/
theorem StoresOnly.cons {r : Result} {a : Addr} {l : List Word} (hl : l.length < 2 ^ 18)
    (h : StoresOnly (s.poke a w) r (a + 1) l) : StoresOnly s r a (w :: l) := by
  obtain ⟨t, ht, honly, hstored⟩ := h
  exact ⟨t, ht, (onlyStorage_poke s a w).trans honly, stored_cons hl hstored⟩

theorem storeOperand_of_allowed (hq : s.inside = []) (h : effectiveAddress .double o s = .ok ea)
    (hv : s.violates ea = false) (w : Word) : StoresOnly s (storeOperand o w s) ea [w] := by
  rw [storeOperand, withAddress_of_ok hq h, withStore_of_allowed hq hv]
  exact storesOnly_poke s ea w

theorem storeDouble_of_allowed (hq : s.inside = []) (h : effectiveAddress .double o s = .ok ea)
    (hv : s.violates ea = false) (hv1 : s.violates (ea + 1) = false) (w0 w1 : Word) :
    StoresOnly s (storeDouble o w0 w1 s) ea [w0, w1] := by
  have hq0 : (s.poke ea w0).inside = [] := hq
  have hv0 : (s.poke ea w0).violates (ea + 1) = false := (s.violates_poke ea (ea + 1) w0).trans hv1
  rw [storeDouble, withAddress_of_ok hq h, withStores, withStore_of_allowed hq hv, withStores,
    withStore_of_allowed hq0 hv0, withStores]
  exact (storesOnly_poke _ (ea + 1) w1).cons (by simp)

theorem updateOperand_of_allowed (hq : s.inside = []) (h : effectiveAddress .double o s = .ok ea)
    (hw : s.load ea = some w) (hv : s.violates ea = false) (f : Word → Word) :
    StoresOnly s (updateOperand o f s) ea [f w] := by
  rw [updateOperand, withAddress_of_ok hq h, withUpdate_of_allowed hq hw hv]
  exact storesOnly_poke s ea (f w)

theorem updateIndexOperand_of_allowed (hq : s.inside = []) (h : effectiveAddress .single o s = .ok ea)
    (hw : s.load ea = some w) (hv : s.violates ea = false) (f : Word → Word) :
    StoresOnly s (updateIndexOperand o f s) ea [f w] := by
  rw [updateIndexOperand, withAddress_of_ok hq h, withUpdate_of_allowed hq hw hv]
  exact storesOnly_poke s ea (f w)

/-- Settles O13: each instruction stores one word at its effective address, or two from there on. -/
theorem wordStores : Obligations.WordStores := by
  unfold Obligations.WordStores
  intro o s ea hq h hv
  rw [← Acc.logical_eq]
  constructor
  · have hstore := storeOperand_of_allowed hq h hv
    simp only [List.forall_mem_cons]
    exact ⟨hstore _, hstore _, hstore _, hstore _, hstore _, hstore _, hstore _, List.forall_mem_nil _⟩
  · intro hv1
    have hdouble := storeDouble_of_allowed hq h hv hv1
    simp only [List.forall_mem_cons]
    exact ⟨hdouble _ _, hdouble _ _, hdouble _ _, List.forall_mem_nil _⟩

/-- ADOS's sum by the sign of the word, plus first (R372, D23). -/
theorem incrementWord_eq (w : Word) :
    incrementWord w =
      if signOf w = false then signed false (magnitude w + 1)
      else if magnitude w = 0 then signed false 1
      else signed true (magnitude w - 1) := by
  unfold incrementWord
  cases signOf w <;> rfl

/-- Settles O14: each instruction replaces the word at its effective address by a function of it. -/
theorem fieldStores : Obligations.FieldStores := by
  unfold Obligations.FieldStores
  intro o s ea w hq hw hv
  rw [← incrementWord_eq]
  refine ⟨fun h => ?double, fun h => ?single⟩
  case double =>
    have hupdate := updateOperand_of_allowed hq h hw hv
    simp only [List.forall_mem_cons]
    exact ⟨hupdate _, hupdate _, hupdate _, hupdate _, hupdate _, hupdate _, hupdate _, hupdate _, hupdate _,
      hupdate _, List.forall_mem_nil _⟩
  case single =>
    have hupdate := updateIndexOperand_of_allowed hq h hw hv
    simp only [List.forall_mem_cons]
    exact ⟨hupdate _, hupdate _, hupdate _, hupdate _, List.forall_mem_nil _⟩

/-! ## Blocks stored, none of whose words violates -/

theorem execScpu_of_allowed (hq : s.inside = []) (h : effectiveAddress .single o s = .ok ea)
    (hv : ∀ k, k < 2 + o.t1.toNat / 2 → s.violates (ea + BitVec.ofNat 18 k) = false) :
    StoresOnly s (execScpu o s) ea (scpuBlock s o.t1.toNat (packIndicators s)) := by
  have ht1 : o.t1.toNat < 16 := o.t1.isLt
  have hlen := savedProcessor_length s o.t1.toNat
  rw [execScpu, withAddress_of_ok hq h, ← savedProcessor_eq]
  exact withStores_of_allowed _ s ea hq (by omega) (fun k hk => hv k (by omega)) .next

theorem execSmx_of_zero (hq : s.inside = []) (h : effectiveAddress .single o s = .ok ea) (ht : o.t1 = 0) :
    execSmx o s = .next s := by
  rw [execSmx, withAddress_of_ok hq h, if_pos ht]

/-- SMX reads and replaces its first word, then stores the pairs from the next address on (R340). -/
theorem execSmx_of_allowed (hq : s.inside = []) (h : effectiveAddress .single o s = .ok ea) (ht : o.t1 ≠ 0)
    (hw : s.load ea = some w) (hv : ∀ k, k < 1 + o.t1.toNat / 2 → s.violates (ea + BitVec.ofNat 18 k) = false) :
    StoresOnly s (execSmx o s) ea (smxBlock s o.t1.toNat w) := by
  have ht1 : o.t1.toNat < 16 := o.t1.isLt
  have hlen := indexPairs_length s o.t1.toNat
  have hfirst : s.violates ea = false := by simpa using hv 0 (by omega)
  rw [execSmx, withAddress_of_ok hq h, if_neg ht, withUpdate_of_allowed hq hw hfirst, smxBlock_eq]
  have hrest : ∀ k, k < (indexPairs s o.t1.toNat).length →
      (s.poke ea (withRight (s.x 1) w)).violates (ea + 1 + BitVec.ofNat 18 k) = false := fun k hk => by
    rw [State.violates_poke, ← addr_succ]
    exact hv (k + 1) (by omega)
  exact StoresOnly.cons (by omega) (withStores_of_allowed _ (s.poke ea _) _ hq (by omega) hrest .next)

/-- Settles O16: both blocks are lists of words stored from the effective address on. -/
theorem blockStores : Obligations.BlockStores := by
  unfold Obligations.BlockStores
  refine fun o s ea hq h => ⟨fun hv => ?_, execSmx_of_zero hq h, fun w ht hw hv => execSmx_of_allowed hq h ht hw hv⟩
  obtain ⟨t, ht, honly, hstored⟩ := execScpu_of_allowed hq h hv
  exact ⟨t, packIndicators s, ht, honly, indicatorHalf_packIndicators s, hstored⟩

/-! ## Blocks loaded -/

/-- What a block leaves in the index registers: its first word loads XR1 unless the count is zero, its pairs the
others up to the count (R166, R341). -/
theorem loadPairs_x_of_first {n : Nat} {pairs : List Word} (first : Word) (s : State) (hn : n ≤ 15)
    (hl : pairs.length = n / 2) {j : Nat} (hj : 1 ≤ j) :
    (loadPairs n 1 pairs (if 1 ≤ n then s.setX 1 (rightHalf first) else s)).x j =
      if j ≤ n then halfFor j first pairs else s.x j := by
  have hfirst : (if 1 ≤ n then s.setX 1 (rightHalf first) else s).x j =
      if j = 1 ∧ 1 ≤ n then rightHalf first else s.x j := by
    by_cases hcount : 1 ≤ n
    · rw [if_pos hcount, State.x_setX (by decide)]
      exact if_congr (by omega) rfl rfl
    · rw [if_neg hcount, if_neg (by omega)]
  rw [loadPairs_x n 1 pairs _ le_rfl hn (by omega), hfirst, halfFor]
  by_cases hone : j = 1
  · subst hone; simp
  · have htwo : 2 * 1 ≤ j := by omega
    simp [hone, htwo]

/-- RCPU's registers come from its first two words, the index registers apart (R166). -/
theorem restoreProcessor_eq (n : Nat) (w0 w1 : Word) (pairs : List Word) (s : State) :
    restoreProcessor n w0 w1 pairs s =
      { loadIndicators w0 (leftHalf w1) s with xr := (restoreProcessor n w0 w1 pairs s).xr } := by
  rw [restoreProcessor, loadPairs_eq]
  split
  · rw [State.setX_eq]
  · rfl

section
variable (n : Nat) (w0 w1 : Word) (pairs : List Word) (s : State)

@[simp] theorem restoreProcessor_ac :
    (restoreProcessor n w0 w1 pairs s).ac =
      Acc.make (signOf w0) (halfPosition (leftHalf w1) 2) (halfPosition (leftHalf w1) 1) (magnitude w0) := by
  rw [restoreProcessor_eq]; rfl

@[simp] theorem restoreProcessor_ov :
    (restoreProcessor n w0 w1 pairs s).ov = halfPosition (leftHalf w1) 0 := by rw [restoreProcessor_eq]; rfl

@[simp] theorem restoreProcessor_ixh :
    (restoreProcessor n w0 w1 pairs s).ixh = halfPosition (leftHalf w1) 3 := by rw [restoreProcessor_eq]; rfl

@[simp] theorem restoreProcessor_ixl :
    (restoreProcessor n w0 w1 pairs s).ixl = halfPosition (leftHalf w1) 4 := by rw [restoreProcessor_eq]; rfl

@[simp] theorem restoreProcessor_ixe :
    (restoreProcessor n w0 w1 pairs s).ixe = halfPosition (leftHalf w1) 5 := by rw [restoreProcessor_eq]; rfl

end

theorem execRcpu_of_holds {w0 w1 : Word} {pairs : List Word} (hq : s.inside = [])
    (h : effectiveAddress .single o s = .ok ea) (hl : pairs.length = o.t1.toNat / 2)
    (hheld : Holds s ea (w0 :: w1 :: pairs)) :
    execRcpu o s = .next (restoreProcessor o.t1.toNat w0 w1 pairs s) := by
  obtain ⟨h0, hrest⟩ := holds_cons.1 hheld
  obtain ⟨h1, hpairs⟩ := holds_cons.1 hrest
  have htwo : ea + 1 + 1 = ea + 2 := BitVec.add_assoc ea 1 1
  rw [execRcpu, withAddress_of_ok hq h, withDouble_of_load hq h0 h1, ← hl, ← htwo, withWords_of_holds _ _ hq hpairs]

theorem execLmx_of_zero (hq : s.inside = []) (h : effectiveAddress .single o s = .ok ea) (ht : o.t1 = 0) :
    execLmx o s = .next s := by
  rw [execLmx, withAddress_of_ok hq h, if_pos ht]

theorem execLmx_of_holds {pairs : List Word} (hq : s.inside = []) (h : effectiveAddress .single o s = .ok ea)
    (ht : o.t1 ≠ 0) (hl : pairs.length = o.t1.toNat / 2) (hheld : Holds s ea (w :: pairs)) :
    execLmx o s = .next (loadPairs o.t1.toNat 1 pairs (s.setX 1 (rightHalf w))) := by
  obtain ⟨hw, hpairs⟩ := holds_cons.1 hheld
  rw [execLmx, withAddress_of_ok hq h, if_neg ht, withWord_of_load hq hw, ← hl, withWords_of_holds _ _ hq hpairs]

/-- Settles O17: the words of the block are read in their order, and its pairs fill the index registers up to the
count. -/
theorem blockLoads : Obligations.BlockLoads := by
  unfold Obligations.BlockLoads
  intro o s ea hq h
  have ht1 : o.t1.toNat < 16 := o.t1.isLt
  refine ⟨fun w0 w1 pairs hl hheld => ?rcpu, execLmx_of_zero hq h, fun w pairs ht hl hheld => ?lmx⟩
  case rcpu =>
    refine ⟨_, execRcpu_of_holds hq h hl hheld, ?frame, by simp, by simp, by simp, by simp, by simp, by simp,
      by simp, by simp, fun j hj _ => ?index⟩
    case frame => rw [restoreProcessor_eq]; rfl
    case index => exact loadPairs_x_of_first w1 (loadIndicators w0 (leftHalf w1) s) (by omega) hl hj
  case lmx =>
    have hcount : 1 ≤ o.t1.toNat := Nat.one_le_iff_ne_zero.2 fun h0 => ht (BitVec.eq_of_toNat_eq h0)
    refine ⟨_, execLmx_of_holds hq h ht hl hheld, ?_, fun j hj _ => ?_⟩
    · rw [loadPairs_eq, State.setX_eq]
    · rw [← loadPairs_x_of_first w s (by omega) hl hj, if_pos hcount]

end Sys2Proof.Machine
end

section
/-! Fixed point operations (spec/41_fixed_point.md): what the sums, products and quotients leave in AC and MQ as
numbers, and the traps of the divides. Each instruction is first an equation for the state its model function gives,
then the function's registers are read as numbers. -/

namespace Sys2Proof.Machine

variable {s : State} {o : Operand} {ea : Addr} {w : Word}

/-! ## Sums -/

theorem addMagnitude_of_like {a : Acc} {b : Bool} (h : a.s = b) (m : BitVec 35) :
    (addMagnitude a b m).s = a.s ∧ (addMagnitude a b m).m.toNat = (a.m.toNat + m.toNat) % 2 ^ 37 := by
  have hm : (m.setWidth 37).toNat = m.toNat := BitVec.toNat_setWidth_of_le (by decide)
  simp only [addMagnitude, if_pos h, BitVec.toNat_add, hm, and_self]

theorem addMagnitude_of_not_above {a : Acc} {b : Bool} {m : BitVec 35} (h : a.s ≠ b) (hle : m.toNat ≤ a.m.toNat) :
    (addMagnitude a b m).s = a.s ∧ (addMagnitude a b m).m.toNat = a.m.toNat - m.toNat := by
  have hm : (m.setWidth 37).toNat = m.toNat := BitVec.toNat_setWidth_of_le (by decide)
  have hle' : m.setWidth 37 ≤ a.m := by rw [BitVec.le_def, hm]; exact hle
  simp only [addMagnitude, if_neg h, if_pos hle', BitVec.toNat_sub_of_le hle', hm, and_self]

theorem addMagnitude_of_above {a : Acc} {b : Bool} {m : BitVec 35} (h : a.s ≠ b) (hlt : a.m.toNat < m.toNat) :
    (addMagnitude a b m).s = b ∧ (addMagnitude a b m).m.toNat = m.toNat - a.m.toNat := by
  have hm : (m.setWidth 37).toNat = m.toNat := BitVec.toNat_setWidth_of_le (by decide)
  have hlt' : ¬ m.setWidth 37 ≤ a.m := by rw [BitVec.le_def, hm]; omega
  have hle : a.m ≤ m.setWidth 37 := by rw [BitVec.le_def, hm]; omega
  simp only [addMagnitude, if_neg h, if_neg hlt', BitVec.toNat_sub_of_le hle, hm, and_true]
  exact Bool.not_eq.2 h

theorem addOverflows_of_like {a : Acc} {b : Bool} (h : a.s = b) (m : BitVec 35) :
    addOverflows a b m = true ↔ (addMagnitude a b m).p ≠ a.p := by
  simp [addOverflows, addMagnitude, Acc.p, h]

theorem addOverflows_of_unlike {a : Acc} {b : Bool} (h : a.s ≠ b) (m : BitVec 35) : addOverflows a b m = false := by
  simp [addOverflows, h]

theorem State.addToAc_ov_of_like {b : Bool} (h : s.ac.s = b) (m : BitVec 35) :
    (s.addToAc b m).ov = true ↔ s.ov = true ∨ (s.addToAc b m).ac.p ≠ s.ac.p := by
  rw [State.addToAc, Bool.or_eq_true, addOverflows_of_like h]

theorem State.addToAc_ov_of_unlike {b : Bool} (h : s.ac.s ≠ b) (m : BitVec 35) : (s.addToAc b m).ov = s.ov := by
  rw [State.addToAc, addOverflows_of_unlike h, Bool.or_false]

theorem execRnd_of_round (hq : s.inside = []) (h : effectiveAddress .double o s = .ok ea)
    (hr : position s.mq 1 = true) : execRnd o s = .next (s.addToAc s.ac.s 1) := by
  rw [execRnd, withAddress_of_ok hq h, if_pos hr]

theorem execRnd_of_no_round (hq : s.inside = []) (h : effectiveAddress .double o s = .ok ea)
    (hr : position s.mq 1 = false) : execRnd o s = .next s := by
  rw [execRnd, withAddress_of_ok hq h, hr]; rfl

/-- The end-around carry brings the sum back below 2^36 (R183). -/
theorem addLogical_toNat (a w : Word) :
    (addLogical a w).toNat =
      if a.toNat + w.toNat < 2 ^ 36 then a.toNat + w.toNat else a.toNat + w.toNat - 2 ^ 36 + 1 := by
  have ha := a.isLt
  have hw := w.isLt
  rw [addLogical, BitVec.toNat_ofNat]
  split_ifs <;> omega

/-- Settles O18: like signs add, unlike signs subtract the smaller magnitude, and ACL is its own sum. -/
theorem additions : Obligations.Additions := by
  unfold Obligations.Additions
  intro o s ea hq h
  refine ⟨fun w p hp => ?sum, execRnd_of_no_round hq h, fun w hw => ?acl⟩
  case sum =>
    have hexec : exec p.1 s = .next (s.addToAc p.2.1 p.2.2) := by
      rcases hp with ⟨hw, hp⟩ | ⟨hr, rfl⟩
      · have hone {k} := withOperand_of_ok (k := k) hq h hw
        simp only [List.mem_cons, List.not_mem_nil, or_false] at hp
        rcases hp with rfl | rfl | rfl | rfl <;> exact hone
      · exact execRnd_of_round hq h hr
    refine ⟨_, hexec, rfl, fun hlike => ?like, fun hunlike => ?unlike⟩
    case like =>
      obtain ⟨hs, hm⟩ := addMagnitude_of_like hlike p.2.2
      exact ⟨hs, hm, State.addToAc_ov_of_like hlike p.2.2⟩
    case unlike =>
      exact ⟨State.addToAc_ov_of_unlike hunlike p.2.2, addMagnitude_of_not_above hunlike,
        addMagnitude_of_above hunlike⟩
  case acl =>
    refine ⟨_, withOperand_of_ok hq h hw, rfl, rfl, Acc.withLogical_q _ _, ?_⟩
    rw [Acc.withLogical_logical, addLogical_toNat]

/-! ## Products -/

/-- Position 1 of a word says whether its magnitude is at least a half. -/
theorem position_one (w : Word) : position w 1 = decide (2 ^ 34 ≤ (magnitude w).toNat) := by
  have hmsb := BitVec.msb_eq_decide (magnitude w)
  rw [BitVec.msb_eq_getLsbD_last, getLsbD_magnitude] at hmsb
  exact hmsb

theorem product_le (a b : BitVec 35) : product a b ≤ (2 ^ 35 - 1) * (2 ^ 35 - 1) :=
  Nat.mul_le_mul (Nat.le_pred_of_lt a.isLt) (Nat.le_pred_of_lt b.isLt)

theorem multiply_ac_mag_toNat (s : State) (w : Word) :
    (multiply s w).ac.mag.toNat = product (magnitude s.mq) (magnitude w) / 2 ^ 35 := by
  have hp := product_le (magnitude s.mq) (magnitude w)
  rw [multiply, Acc.make_mag, BitVec.toNat_ofNat]
  omega

theorem multiply_mq_magnitude_toNat (s : State) (w : Word) :
    (magnitude (multiply s w).mq).toNat = product (magnitude s.mq) (magnitude w) % 2 ^ 35 := by
  rw [multiply, magnitude_signed, BitVec.toNat_ofNat]

theorem roundProduct_eq (s : State) :
    roundProduct s = { s with
      ac := Acc.make s.ac.s s.ac.q s.ac.p (if position s.mq 1 then s.ac.mag + 1 else s.ac.mag) } := by
  cases h : position s.mq 1 <;> simp [roundProduct, h, Acc.make_parts]

/-- Rounding adds one to the high half exactly when the low half is at least a half; the high half of a product is never
all ones, so nothing is carried out of it. -/
theorem roundProduct_multiply_ac_mag_toNat (s : State) (w : Word) :
    (roundProduct (multiply s w)).ac.mag.toNat = (product (magnitude s.mq) (magnitude w) + 2 ^ 34) / 2 ^ 35 := by
  have hp := product_le (magnitude s.mq) (magnitude w)
  have hhigh := multiply_ac_mag_toNat s w
  have hlow := multiply_mq_magnitude_toNat s w
  rw [roundProduct_eq, Acc.make_mag, position_one, hlow]
  split_ifs with h
  · rw [decide_eq_true_eq] at h
    rw [BitVec.toNat_add, hhigh, show (1 : BitVec 35).toNat = 1 from rfl]
    omega
  · rw [decide_eq_true_eq] at h
    rw [hhigh]
    omega

/-- What IMP, IDV and FRD ask of the accumulator (R188, R192, R216). -/
theorem fitsWord_of_zero {a : Acc} (hq : a.q = false) (hp : a.p = false) : fitsWord a = true := by
  simp [fitsWord, hq, hp]

theorem execImp_of_fits (hq : s.inside = []) (h : effectiveAddress .double o s = .ok ea) (hw : s.load ea = some w)
    (hfits : fitsWord s.ac = true) : execImp o s = .next (integerMultiply s w) := by
  rw [execImp, withAddress_of_ok hq h, if_pos hfits, withWord_of_load hq hw]

theorem integerMultiply_eq (s : State) (w : Word) :
    integerMultiply s w = { s with
      ac := Acc.make (s.ac.s != signOf w) false false (BitVec.ofNat 35 (product s.ac.mag (magnitude w)))
      ov := s.ov || decide (2 ^ 35 ≤ product s.ac.mag (magnitude w))
      mq := if 2 ^ 35 ≤ product s.ac.mag (magnitude w) then
          signed (s.ac.s != signOf w) (BitVec.ofNat 35 (product s.ac.mag (magnitude w) / 2 ^ 35))
        else Config.impMq s.tick } := by
  by_cases h : 2 ^ 35 ≤ product s.ac.mag (magnitude w)
  · simp only [integerMultiply, productSign, if_pos h, decide_eq_true h, Bool.or_true]
  · simp only [integerMultiply, productSign, if_neg h, decide_eq_false h, Bool.or_false]

/-- Settles O19: the two halves of the product as numbers, rounded for MPR; for IMP the low half, and the high one when
it is not zero. -/
theorem multiplication : Obligations.Multiplication := by
  unfold Obligations.Multiplication
  intro o s ea w hq h hw
  have hone {k} := withOperand_of_ok (k := k) hq h hw
  refine ⟨⟨_, hone, ?mpy⟩, ⟨_, hone, ?mpr⟩, fun hacq hacp => ?imp⟩
  case mpy =>
    refine ⟨rfl, rfl, signOf_signed _ _, Acc.make_q _ _ _ _, Acc.make_p _ _ _ _, ?_⟩
    rw [multiply_ac_mag_toNat, multiply_mq_magnitude_toNat]
    exact Nat.div_add_mod' _ _
  case mpr =>
    have hround := roundProduct_multiply_ac_mag_toNat s w
    rw [roundProduct_eq] at hround ⊢
    exact ⟨rfl, rfl, signOf_signed _ _, (Acc.make_q _ _ _ _).trans (Acc.make_q _ _ _ _),
      (Acc.make_p _ _ _ _).trans (Acc.make_p _ _ _ _), multiply_mq_magnitude_toNat s w, hround⟩
  case imp =>
    have hp := product_le s.ac.mag (magnitude w)
    have hexec := execImp_of_fits hq h hw (fitsWord_of_zero hacq hacp)
    rw [integerMultiply_eq] at hexec
    refine ⟨_, hexec, rfl, rfl, Acc.make_q _ _ _ _, Acc.make_p _ _ _ _, ?_, ?_, fun hov => ?_⟩
    · rw [Acc.make_mag, BitVec.toNat_ofNat, product]
    · rw [Bool.or_eq_true, decide_eq_true_eq, product]
    · rw [← product] at hov ⊢
      rw [if_pos hov, signOf_signed, magnitude_signed, BitVec.toNat_ofNat]
      exact ⟨rfl, by omega⟩

/-! ## Variable-length products and quotients -/

/-- One step of VLM: the pair, read as one number, is halved after the multiplicand is added above it for a one bit. -/
theorem multiplySteps_succ {m a q : Nat} (hm : m < 2 ^ 35) (ha : a < 2 ^ 35) (hq : q < 2 ^ 35) (c : Nat) :
    ∃ a' q', multiplySteps m (c + 1) (a, q) = multiplySteps m c (a', q') ∧ a' < 2 ^ 35 ∧ q' < 2 ^ 35 ∧
      a' * 2 ^ 35 + q' = (a * 2 ^ 35 + q) / 2 + m * (q % 2) * 2 ^ 34 ∧ q' % 2 ^ 34 = q / 2 := by
  rcases Nat.mod_two_eq_zero_or_one q with h | h
  · refine ⟨a / 2, q / 2 + a % 2 * 2 ^ 34, by simp [multiplySteps, h], ?_⟩
    rw [h]
    omega
  · refine ⟨(a + m) / 2, q / 2 + (a + m) % 2 * 2 ^ 34, ?_, ?_⟩
    · rw [multiplySteps, if_pos h, Nat.mod_eq_of_lt (show a + m < 2 ^ 37 by omega)]
    · rw [h]
      omega

/-- After `c` steps the pair is the product of the multiplicand and the low `c` bits, above what is left of the number
the pair was (R189). -/
theorem multiplySteps_toNat {m : Nat} (hm : m < 2 ^ 35) :
    ∀ {c a q : Nat}, c ≤ 35 → a < 2 ^ 35 → q < 2 ^ 35 →
      (multiplySteps m c (a, q)).1 < 2 ^ 35 ∧ (multiplySteps m c (a, q)).2 < 2 ^ 35 ∧
        (multiplySteps m c (a, q)).1 * 2 ^ 35 + (multiplySteps m c (a, q)).2 =
          m * (q % 2 ^ c) * 2 ^ (35 - c) + (a * 2 ^ 35 + q) / 2 ^ c
  | 0, a, q, _, ha, hq => ⟨ha, hq, by simp [multiplySteps, Nat.mod_one]⟩
  | c + 1, a, q, hc, ha, hq => by
    obtain ⟨a', q', hstep, ha', hq', hvalue, hlow⟩ := multiplySteps_succ hm ha hq c
    obtain ⟨h1, h2, hrest⟩ := multiplySteps_toNat hm (c := c) (by omega) ha' hq'
    have hbits : q' % 2 ^ c = q / 2 % 2 ^ c := by
      rw [← hlow, Nat.mod_mod_of_dvd _ (Nat.pow_dvd_pow 2 (by omega))]
    have hpow : (2 : Nat) ^ 34 = 2 ^ (34 - c) * 2 ^ c := by rw [← Nat.pow_add]; congr 1; omega
    have hdiv : (a' * 2 ^ 35 + q') / 2 ^ c = (a * 2 ^ 35 + q) / 2 ^ (c + 1) + m * (q % 2) * 2 ^ (34 - c) := by
      rw [hvalue, hpow, ← Nat.mul_assoc, Nat.add_mul_div_right _ _ (Nat.two_pow_pos c), Nat.div_div_eq_div_mul,
        ← Nat.pow_succ']
    rw [hstep]
    refine ⟨h1, h2, ?_⟩
    calc (multiplySteps m c (a', q')).1 * 2 ^ 35 + (multiplySteps m c (a', q')).2
        = m * (q / 2 % 2 ^ c) * 2 ^ (35 - c) + ((a * 2 ^ 35 + q) / 2 ^ (c + 1) + m * (q % 2) * 2 ^ (34 - c)) := by
          rw [hrest, hbits, hdiv]
      _ = m * (q % 2 + 2 * (q / 2 % 2 ^ c)) * 2 ^ (34 - c) + (a * 2 ^ 35 + q) / 2 ^ (c + 1) := by
          rw [show 35 - c = 34 - c + 1 by omega, Nat.pow_succ]; ring
      _ = m * (q % 2 ^ (c + 1)) * 2 ^ (35 - (c + 1)) + (a * 2 ^ 35 + q) / 2 ^ (c + 1) := by
          rw [← Nat.mod_mul, ← Nat.pow_succ', show 35 - (c + 1) = 34 - c by omega]

/-- One step of VDT: the top bit of `q` goes into `a`, and the bit that comes in below says whether the divisor was
taken off. -/
theorem divideSteps_succ {d a q : Nat} (hd : d < 2 ^ 35) (ha : a < d) (hq : q < 2 ^ 35) (c : Nat) :
    ∃ a' q', divideSteps d (c + 1) (a, q) = divideSteps d c (a', q') ∧ a' < d ∧ q' < 2 ^ 35 ∧
      q' / 2 = q % 2 ^ 34 ∧ q' % 2 * d + a' = a * 2 + q / 2 ^ 34 := by
  have hshift : a * 2 % 2 ^ 37 = a * 2 := Nat.mod_eq_of_lt (by omega)
  by_cases h : d ≤ a * 2 + q / 2 ^ 34 % 2
  · refine ⟨_, _, by rw [divideSteps, hshift, if_pos h], by omega, by omega, by omega, ?_⟩
    rw [show (q * 2 % 2 ^ 35 + 1) % 2 = 1 by omega]
    omega
  · refine ⟨_, _, by rw [divideSteps, hshift, if_neg h], by omega, by omega, by omega, ?_⟩
    rw [show q * 2 % 2 ^ 35 % 2 = 0 by omega]
    omega

/-- After `c` steps a `c`-bit quotient stands below the dividend bits not yet used, and the remainder of those used
is below the divisor (R193). -/
theorem divideSteps_toNat {d : Nat} (hd : d < 2 ^ 35) :
    ∀ {c a q : Nat}, c ≤ 35 → a < d → q < 2 ^ 35 →
      ∃ r k, divideSteps d c (a, q) = (r, q * 2 ^ c % 2 ^ 35 + k) ∧ q * 2 ^ c % 2 ^ 35 + k < 2 ^ 35 ∧ r < d ∧
        k < 2 ^ c ∧ k * d + r = a * 2 ^ c + q / 2 ^ (35 - c)
  | 0, a, q, _, ha, hq => by
    have hkeep : q * 2 ^ 0 % 2 ^ 35 + 0 = q := by omega
    refine ⟨a, 0, ?_, ?_, ha, Nat.one_pos, ?_⟩
    · rw [divideSteps, hkeep]
    · rwa [hkeep]
    · rw [Nat.sub_zero, Nat.div_eq_of_lt hq]
      omega
  | c + 1, a, q, hc, ha, hq => by
    obtain ⟨a', q', hstep, ha', hq', hhigh, hfirst⟩ := divideSteps_succ hd ha hq c
    obtain ⟨r, k, hsteps, hlt, hr, hk, hrest⟩ := divideSteps_toNat hd (c := c) (by omega) ha' hq'
    have hpow34 : (2 : Nat) ^ 34 = 2 ^ (34 - c) * 2 ^ c := by rw [← Nat.pow_add]; congr 1; omega
    have hpow35 : (2 : Nat) ^ 35 = 2 * 2 ^ (34 - c) * 2 ^ c := by rw [Nat.mul_assoc, ← hpow34]; rfl
    have hexp : 35 - (c + 1) = 34 - c := by omega
    have hhalf : q' / 2 ^ (35 - c) = q % 2 ^ 34 / 2 ^ (34 - c) := by
      rw [← hhigh, Nat.div_div_eq_div_mul, ← Nat.pow_succ']; congr 2; omega
    have hkeep : q' * 2 ^ c % 2 ^ 35 = q * 2 ^ (c + 1) % 2 ^ 35 + q' % 2 * 2 ^ c := by
      calc q' * 2 ^ c % 2 ^ 35
          = (q' % 2 + 2 * (q % 2 ^ 34 % 2 ^ (34 - c))) * 2 ^ c := by
            rw [hpow35, Nat.mul_mod_mul_right, Nat.mod_mul, hhigh]
        _ = (q' % 2 + 2 * (q % 2 ^ (34 - c))) * 2 ^ c := by
            rw [Nat.mod_mod_of_dvd _ (Nat.pow_dvd_pow 2 (by omega))]
        _ = q * 2 ^ (c + 1) % 2 ^ 35 + q' % 2 * 2 ^ c := by
            rw [Nat.pow_succ', ← Nat.mul_assoc, Nat.mul_comm q 2, hpow35, Nat.mul_mod_mul_right, Nat.mul_mod_mul_left]
            ring
    rw [hkeep, Nat.add_assoc] at hsteps hlt
    refine ⟨r, q' % 2 * 2 ^ c + k, hstep.trans hsteps, hlt, hr, ?quotient, ?dividend⟩
    case quotient =>
      rw [Nat.pow_succ']
      rcases Nat.mod_two_eq_zero_or_one q' with h | h <;> rw [h] <;> omega
    case dividend =>
      have hused : q / 2 ^ (34 - c) = q % 2 ^ 34 / 2 ^ (34 - c) + q / 2 ^ 34 * 2 ^ c := by
        rw [← Nat.add_mul_div_right _ _ (Nat.two_pow_pos (34 - c)), Nat.mul_assoc, Nat.mul_comm (2 ^ c), ← hpow34,
          Nat.mod_add_div']
      calc (q' % 2 * 2 ^ c + k) * d + r
          = q' % 2 * 2 ^ c * d + (k * d + r) := by rw [Nat.add_mul, Nat.add_assoc]
        _ = (q' % 2 * d + a') * 2 ^ c + q % 2 ^ 34 / 2 ^ (34 - c) := by rw [hrest, hhalf]; ring
        _ = a * 2 ^ (c + 1) + q / 2 ^ (35 - (c + 1)) := by rw [hfirst, hexp, hused, Nat.pow_succ]; ring

/-- The registers after VLM as one number (R189): nothing is left of a zero factor. -/
theorem variableMultiply_toNat {c : Nat} (hc : c ≤ 35) (s : State) (w : Word) :
    (variableMultiply c s w).ac.m.toNat * 2 ^ 35 + (magnitude (variableMultiply c s w).mq).toNat =
      if (magnitude w).toNat = 0 ∨ (magnitude s.mq).toNat = 0 then 0
      else
        (magnitude w).toNat * ((magnitude s.mq).toNat % 2 ^ c) * 2 ^ (35 - c) + (magnitude s.mq).toNat / 2 ^ c := by
  simp only [variableMultiply, magnitude_signed, BitVec.toNat_ofNat]
  by_cases hzero : (magnitude w).toNat = 0 ∨ (magnitude s.mq).toNat = 0
  · rw [if_pos hzero, if_neg (by omega)]
    rfl
  · obtain ⟨ha, hq, hvalue⟩ := multiplySteps_toNat (magnitude w).isLt hc (Nat.two_pow_pos 35) (magnitude s.mq).isLt
    rw [if_neg hzero, if_pos (by omega), Nat.mod_eq_of_lt (by omega), Nat.mod_eq_of_lt hq, hvalue, Nat.zero_mul,
      Nat.zero_add]

/-- The registers after VDT (R193): the quotient at the low end of MQ, the remainder in AC. -/
theorem variableDivide_toNat {c : Nat} (hc : c ≤ 35) (h : s.ac.m.toNat < (magnitude w).toNat) :
    ∃ k, k < 2 ^ c ∧
      (magnitude (variableDivide c s w).mq).toNat = (magnitude s.mq).toNat * 2 ^ c % 2 ^ 35 + k ∧
      (variableDivide c s w).ac.m.toNat < (magnitude w).toNat ∧
      k * (magnitude w).toNat + (variableDivide c s w).ac.m.toNat =
        s.ac.m.toNat * 2 ^ c + (magnitude s.mq).toNat / 2 ^ (35 - c) := by
  have hw := (magnitude w).isLt
  obtain ⟨r, k, hsteps, hlt, hr, hk, hvalue⟩ := divideSteps_toNat hw hc h (magnitude s.mq).isLt
  simp only [variableDivide, magnitude_signed, BitVec.toNat_ofNat, hsteps]
  rw [Nat.mod_eq_of_lt (show r < 2 ^ 37 by omega)]
  exact ⟨k, hk, Nat.mod_eq_of_lt hlt, hr, hvalue⟩

theorem divideChecks_iff {s : State} {w : Word} : divideChecks s w = true ↔ (magnitude w).toNat ≤ s.ac.m.toNat :=
  decide_eq_true_iff

theorem execVlm_of_zero (hq : s.inside = []) (h : effectiveAddress .single o s = .ok ea) (ht : o.t1 = 0) :
    execVlm o s = .next s := by
  rw [execVlm, withAddress_of_ok hq h, if_pos ht]

theorem execVlm_of_load (hq : s.inside = []) (h : effectiveAddress .single o s = .ok ea) (ht : o.t1 ≠ 0)
    (hw : s.load ea = some w) : execVlm o s = .next (variableMultiply o.t1.toNat s w) := by
  rw [execVlm, withAddress_of_ok hq h, if_neg ht, withWord_of_load hq hw]

theorem execVdt_of_zero (hq : s.inside = []) (h : effectiveAddress .single o s = .ok ea) (ht : o.t1 = 0) :
    execVdt o s = .next s := by
  rw [execVdt, withAddress_of_ok hq h, if_pos ht]

theorem execVdt_of_load (hq : s.inside = []) (h : effectiveAddress .single o s = .ok ea) (ht : o.t1 ≠ 0)
    (hw : s.load ea = some w) :
    execVdt o s =
      if (magnitude w).toNat ≤ s.ac.m.toNat then .next (takeTrap .divideCheck s)
      else .next (variableDivide o.t1.toNat s w) := by
  rw [execVdt, withAddress_of_ok hq h, if_neg ht, withWord_of_load hq hw, raise_of_quiet hq]
  simp only [divideChecks_iff]

/-- Settles O20: the registers are what the steps of the two loops come to. -/
theorem variableMultiplyAndDivide : Obligations.VariableMultiplyAndDivide := by
  unfold Obligations.VariableMultiplyAndDivide
  intro o s ea hq h
  have hc : o.t1.toNat ≤ 35 := by have := o.t1.isLt; omega
  refine ⟨⟨execVlm_of_zero hq h, fun w ht hw => ?vlm⟩, ⟨execVdt_of_zero hq h, fun w ht hw hlt => ?vdt⟩⟩
  case vlm =>
    exact ⟨_, execVlm_of_load hq h ht hw, rfl, rfl, signOf_signed _ _, variableMultiply_toNat hc s w⟩
  case vdt =>
    have hexec := execVdt_of_load hq h ht hw
    rw [if_neg (Nat.not_le.2 hlt)] at hexec
    obtain ⟨k, hk, hmq, hac, hvalue⟩ := variableDivide_toNat hc hlt
    exact ⟨_, k, hexec, rfl, rfl, signOf_signed _ _, hk, hmq, hac, hvalue⟩

/-! ## Quotients -/

/-- DVT's dividend: the accumulator's magnitude with that of the MQ below it (R191). -/
theorem divide_registers_toNat (h : s.ac.m.toNat < (magnitude w).toNat) :
    (divide s w).ac.m.toNat = (s.ac.m.toNat * 2 ^ 35 + (magnitude s.mq).toNat) % (magnitude w).toNat ∧
      (magnitude (divide s w).mq).toNat =
        (s.ac.m.toNat * 2 ^ 35 + (magnitude s.mq).toNat) / (magnitude w).toNat := by
  have hw := (magnitude w).isLt
  have hq := (magnitude s.mq).isLt
  have hrem := Nat.mod_lt (s.ac.m.toNat * 2 ^ 35 + (magnitude s.mq).toNat) (show 0 < (magnitude w).toNat by omega)
  have hquot : (s.ac.m.toNat * 2 ^ 35 + (magnitude s.mq).toNat) / (magnitude w).toNat < 2 ^ 35 :=
    Nat.div_lt_of_lt_mul (by omega)
  simp only [divide, magnitude_signed, toNat_append_add, BitVec.toNat_ofNat]
  exact ⟨Nat.mod_eq_of_lt (by omega), Nat.mod_eq_of_lt hquot⟩

theorem integerDivide_registers_toNat (s : State) (w : Word) :
    (integerDivide s w).ac.mag.toNat = s.ac.mag.toNat / (magnitude w).toNat ∧
      (magnitude (integerDivide s w).mq).toNat = s.ac.mag.toNat % (magnitude w).toNat := by
  simp only [integerDivide, Acc.make_mag, magnitude_signed, BitVec.toNat_ofNat]
  exact ⟨Nat.mod_eq_of_lt ((Nat.div_le_self _ _).trans_lt s.ac.mag.isLt),
    Nat.mod_eq_of_lt ((Nat.mod_le _ _).trans_lt s.ac.mag.isLt)⟩

theorem execDvt_of_load (hq : s.inside = []) (h : effectiveAddress .double o s = .ok ea) (hw : s.load ea = some w) :
    execDvt o s =
      if (magnitude w).toNat ≤ s.ac.m.toNat then .next (takeTrap .divideCheck s) else .next (divide s w) := by
  rw [execDvt, withOperand_of_ok hq h hw, raise_of_quiet hq]
  simp only [divideChecks_iff]

theorem execIdv_of_fits (hq : s.inside = []) (h : effectiveAddress .double o s = .ok ea) (hw : s.load ea = some w)
    (hfits : fitsWord s.ac = true) :
    execIdv o s = if magnitude w = 0 then .next (takeTrap .divideCheck s) else .next (integerDivide s w) := by
  rw [execIdv, withAddress_of_ok hq h, if_pos hfits, withWord_of_load hq hw, raise_of_quiet hq]

/-- Settles O21: both divide the dividend as a number, and the quotient fits its register. -/
theorem division : Obligations.Division := by
  unfold Obligations.Division
  intro o s ea w hq h hw
  refine ⟨fun hlt => ?dvt, fun hacq hacp hne => ?idv⟩
  case dvt =>
    have hexec := execDvt_of_load hq h hw
    rw [if_neg (Nat.not_le.2 hlt)] at hexec
    obtain ⟨hac, hmq⟩ := divide_registers_toNat hlt
    refine ⟨_, hexec, rfl, rfl, signOf_signed _ _, ?_, ?_⟩
    · rw [hac]; exact Nat.mod_lt _ (by omega)
    · rw [hac, hmq]; exact Nat.div_add_mod' _ _
  case idv =>
    have hpos : 0 < (magnitude w).toNat := Nat.pos_of_ne_zero fun h0 => hne (BitVec.eq_of_toNat_eq h0)
    have hexec := execIdv_of_fits hq h hw (fitsWord_of_zero hacq hacp)
    rw [if_neg hne] at hexec
    obtain ⟨hac, hmq⟩ := integerDivide_registers_toNat s w
    refine ⟨_, hexec, rfl, rfl, Acc.make_q _ _ _ _, Acc.make_p _ _ _ _, signOf_signed _ _, ?_, ?_⟩
    · rw [hmq]; exact Nat.mod_lt _ hpos
    · rw [hac, hmq]; exact Nat.div_add_mod' _ _

/-! ## Divide checks -/

theorem floatingDivide_of_check {i : Instr} (hq : s.inside = []) (h : effectiveAddress .double o s = .ok ea)
    (hw : s.load ea = some w) (hcheck : (Config.numerics.fdiv s.ac w).divCheck = true) :
    floatingDivide i o s = .next (takeTrap .divideCheck s) := by
  simp only [floatingDivide]
  rw [withOperand_of_ok hq h hw, if_pos hcheck, raise_of_quiet hq]

theorem execFrd_of_check (hq : s.inside = []) (h : effectiveAddress .double o s = .ok ea) (hw : s.load ea = some w)
    (hfits : fitsWord s.ac = true)
    (hcheck : (Config.numerics.fdiv (Acc.ofSigned w) s.ac.signedWord).divCheck = true) :
    execFrd o s = .next (takeTrap .divideCheck s) := by
  simp only [execFrd]
  rw [withAddress_of_ok hq h, if_pos hfits, withWord_of_load hq hw, if_pos hcheck, raise_of_quiet hq]

/-- Settles O22: the trap is taken from the very state in which the divisor was read. -/
theorem divideChecksTrap : Obligations.DivideChecksTrap := by
  unfold Obligations.DivideChecksTrap
  intro o s ea w hq hw
  refine ⟨fun h => ⟨fun hle => ?dvt, fun hacq hacp hzero => ?idv, fun hcheck => ?fdt, fun hacq hacp hcheck => ?frd⟩,
    fun h ht hle => ?vdt⟩
  case dvt => exact (execDvt_of_load hq h hw).trans (if_pos hle)
  case idv => exact (execIdv_of_fits hq h hw (fitsWord_of_zero hacq hacp)).trans (if_pos hzero)
  case fdt => exact ⟨floatingDivide_of_check hq h hw hcheck, floatingDivide_of_check hq h hw hcheck⟩
  case frd => exact execFrd_of_check hq h hw (fitsWord_of_zero hacq hacp) hcheck
  case vdt => exact (execVdt_of_load hq h ht hw).trans (if_pos hle)

end Sys2Proof.Machine
end

section
/-! Floating point operations (spec/42_floating_point.md). What `pack` leaves in the registers comes first, then each
function of the reference record read as numbers, then the ends of the instructions: the registers are written, and a
spill traps from the state they are written in (D38). -/

namespace Sys2Proof.Machine

variable {s : State} {o : Operand} {ea : Addr} {w w0 w1 : Word}

/-! ## Numbers taken apart and put together -/

theorem unpackWord_ch (w : Word) : (unpackWord w).ch = ((magnitude w).toNat / 2 ^ 27 : Nat) := by
  have hfield : (w.extractLsb' 27 8).toNat = (magnitude w).toNat / 2 ^ 27 := by
    rw [BitVec.extractLsb'_toNat, Nat.shiftRight_eq_div_pow, magnitude_toNat]
    omega
  exact congrArg Nat.cast hfield

theorem unpackWord_fr (w : Word) : (unpackWord w).fr = (magnitude w).toNat % 2 ^ 27 := by
  have hfield : (w.extractLsb' 0 27).toNat = (magnitude w).toNat % 2 ^ 27 := by
    rw [BitVec.extractLsb'_toNat, Nat.shiftRight_zero, magnitude_toNat]
    omega
  exact hfield

theorem unpackAcc_ch (a : Acc) : (unpackAcc a).ch = (a.m.toNat / 2 ^ 27 : Nat) := by
  have hm := a.m.isLt
  have hfield : (a.m.extractLsb' 27 10).toNat = a.m.toNat / 2 ^ 27 := by
    rw [BitVec.extractLsb'_toNat, Nat.shiftRight_eq_div_pow]
    omega
  exact congrArg Nat.cast hfield

theorem unpackAcc_fr (a : Acc) : (unpackAcc a).fr = a.m.toNat % 2 ^ 27 :=
  BitVec.extractLsb'_toNat 0 27 a.m

theorem unpackWord_fr_lt (w : Word) : (unpackWord w).fr < 2 ^ 27 := by
  rw [unpackWord_fr]
  exact Nat.mod_lt _ (by decide)

theorem unpackAcc_fr_lt (a : Acc) : (unpackAcc a).fr < 2 ^ 27 := by
  rw [unpackAcc_fr]
  exact Nat.mod_lt _ (by decide)

@[simp] theorem accOfParts_s (b : Bool) (c : Int) (f : Nat) : (accOfParts b c f).s = b := rfl

theorem accOfParts_m_toNat (b : Bool) (c : Int) (f : Nat) :
    (accOfParts b c f).m.toNat = (c % 1024).toNat * 2 ^ 27 + f % 2 ^ 27 := by
  rw [accOfParts, BitVec.toNat_ofNat]
  omega

@[simp] theorem signOf_wordOfParts (b : Bool) (c : Int) (f : Nat) : signOf (wordOfParts b c f) = b :=
  signOf_signed _ _

theorem magnitude_wordOfParts_toNat (b : Bool) (c : Int) (f : Nat) :
    (magnitude (wordOfParts b c f)).toNat = (c % 256).toNat * 2 ^ 27 + f % 2 ^ 27 := by
  rw [wordOfParts, magnitude_signed, BitVec.toNat_ofNat]
  omega

theorem unpackAcc_accOfParts_ch (b : Bool) (c : Int) (f : Nat) : (unpackAcc (accOfParts b c f)).ch = c % 1024 := by
  rw [unpackAcc_ch, accOfParts_m_toNat]
  omega

theorem unpackAcc_accOfParts_fr (b : Bool) (c : Int) (f : Nat) : (unpackAcc (accOfParts b c f)).fr = f % 2 ^ 27 := by
  rw [unpackAcc_fr, accOfParts_m_toNat]
  omega

theorem unpackWord_wordOfParts_ch (b : Bool) (c : Int) (f : Nat) : (unpackWord (wordOfParts b c f)).ch = c % 256 := by
  rw [unpackWord_ch, magnitude_wordOfParts_toNat]
  omega

theorem unpackWord_wordOfParts_fr (b : Bool) (c : Int) (f : Nat) :
    (unpackWord (wordOfParts b c f)).fr = f % 2 ^ 27 := by
  rw [unpackWord_fr, magnitude_wordOfParts_toNat]
  omega

theorem packed_pack (b : Bool) (c : Int) {f : Nat} (mqc : Int) (hf : f < 2 ^ 54) :
    Packed (pack b c f mqc) c mqc f := by
  refine ⟨hf, ?_, magnitude_wordOfParts_toNat b mqc f, rfl⟩
  rw [pack, accOfParts_m_toNat, Nat.mod_eq_of_lt (by omega : f / 2 ^ 27 < 2 ^ 27)]

theorem pack_zero (b : Bool) :
    pack b 0 0 0 = { ac := accOfParts b 0 0, mq := wordOfParts b 0 0, sp := noSpill, divCheck := false } := by
  simp [pack, spillOf, noSpill]

theorem accOfParts_zero_m (b : Bool) : (accOfParts b 0 0).m = 0 := by simp [accOfParts]

theorem wordOfParts_zero (b : Bool) : wordOfParts b 0 0 = signed b 0 := by simp [wordOfParts]

/-! ## Sums -/

/-- A fraction that is not zero and no wider than the fuel is shifted until its top bit is one, the characteristic
lowered by one for each place. -/
theorem normalise_eq_shift : ∀ {fuel f : Nat} (c : Int), f < 2 ^ 54 → 2 ^ 53 ≤ f * 2 ^ fuel →
    ∃ k : Nat, normalise fuel f c = (f * 2 ^ k, c - k) ∧ 2 ^ 53 ≤ f * 2 ^ k ∧ f * 2 ^ k < 2 ^ 54
  | 0, f, c, hlt, hle => ⟨0, by simp [normalise], hle, by omega⟩
  | fuel + 1, f, c, hlt, hle => by
    by_cases h : f < 2 ^ 53
    · have hfuel : f * 2 * 2 ^ fuel = f * 2 ^ (fuel + 1) := by rw [Nat.pow_succ']; ring
      obtain ⟨k, hk, hbounds⟩ := normalise_eq_shift (f := f * 2) (c - 1) (by omega) (hfuel ▸ hle)
      have hshift : f * 2 * 2 ^ k = f * 2 ^ (k + 1) := by rw [Nat.pow_succ']; ring
      rw [hshift] at hk hbounds
      refine ⟨k + 1, ?_, hbounds⟩
      rw [normalise, if_pos h, hk]
      congr 1
      omega
    · exact ⟨0, by rw [normalise, if_neg h]; simp, by omega, by omega⟩

/-- The end of `fadd`: what is made of sign, fraction and characteristic of the sum. -/
def packSum (norm : Bool) (t : Bool × Nat × Int) : FpResult :=
  if norm then
    if t.2.1 = 0 then pack t.1 0 0 0
    else
      let n := normalise 54 t.2.1 t.2.2
      pack t.1 n.2 n.1 (n.2 - 27)
  else pack t.1 t.2.2 t.2.1 (t.2.2 - 27)

/-- The fraction of `u` shifted right to stand under the larger characteristic `c` (R231). -/
def alignedFraction (u : Unpacked) (c : Int) : Nat :=
  if 0 ≤ c - u.ch ∧ c - u.ch ≤ 63 then u.fr * 2 ^ 27 / 2 ^ (c - u.ch).toNat else 0

theorem alignedFraction_lt {u : Unpacked} (hu : u.fr < 2 ^ 27) (c : Int) : alignedFraction u c < 2 ^ 54 := by
  unfold alignedFraction
  split
  · exact (Nat.div_le_self _ _).trans_lt (by omega)
  · decide

theorem addAligned_eq_packSum (u1 u2 : Unpacked) (norm : Bool) :
    addAligned u1 u2 norm =
      packSum norm (addFractions u1.s (alignedFraction u1 u2.ch) u2.s (u2.fr * 2 ^ 27) u2.ch) := by
  have halign : alignedFraction u1 u2.ch =
      if 63 < u2.ch - u1.ch ∨ u2.ch - u1.ch < 0 then 0 else u1.fr * 2 ^ 27 / 2 ^ (u2.ch - u1.ch).toNat := by
    unfold alignedFraction
    by_cases h : 0 ≤ u2.ch - u1.ch ∧ u2.ch - u1.ch ≤ 63
    · rw [if_pos h, if_neg (by omega)]
    · rw [if_neg h, if_pos (by omega)]
  rw [halign]
  rfl

/-- Every end of a sum gives both registers the sum's sign, and no divide check. -/
theorem packSum_signs (norm : Bool) (t : Bool × Nat × Int) :
    (packSum norm t).ac.s = t.1 ∧ signOf (packSum norm t).mq = t.1 ∧ (packSum norm t).divCheck = false := by
  unfold packSum
  split_ifs <;> exact ⟨rfl, signOf_wordOfParts _ _ _, rfl⟩

theorem packSum_of_zero {t : Bool × Nat × Int} (h : t.2.1 = 0) : Packed (packSum true t) 0 0 0 := by
  rw [packSum, if_pos rfl, if_pos h]
  exact packed_pack t.1 0 0 (by decide)

theorem packSum_packed {norm : Bool} {t : Bool × Nat × Int} (hlt : t.2.1 < 2 ^ 54)
    (h : norm = false ∨ t.2.1 ≠ 0) :
    ∃ k : Nat, Packed (packSum norm t) (t.2.2 - k) (t.2.2 - k - 27) (t.2.1 * 2 ^ k) ∧
      (norm = true → 2 ^ 53 ≤ t.2.1 * 2 ^ k) ∧ (norm = false → k = 0) := by
  cases norm with
  | false =>
    refine ⟨0, ?_, nofun, fun _ => rfl⟩
    simpa [packSum] using packed_pack t.1 t.2.2 (t.2.2 - 27) hlt
  | true =>
    have hne : t.2.1 ≠ 0 := h.resolve_left nofun
    obtain ⟨k, hk, hle, hlt'⟩ := normalise_eq_shift (fuel := 54) t.2.2 hlt (by omega)
    refine ⟨k, ?_, fun _ => hle, nofun⟩
    rw [packSum, if_pos rfl, if_neg hne, hk]
    exact packed_pack t.1 _ _ hlt'

theorem natAbs_algebraic (b : Bool) (m : Nat) : (algebraic b m).natAbs = m := by
  cases b <;> simp [algebraic]

/-- A value's sign is read back from it, or, when it is zero, from `b'`. -/
theorem sign_of_algebraic {b b' : Bool} {m : Nat} (h : m ≠ 0 ∨ b' = b) :
    (if algebraic b m = 0 then b' else decide (algebraic b m < 0)) = b := by
  cases b <;> simp only [algebraic] <;> split_ifs <;> simp_all
  omega

theorem algebraic_add_of_like (b : Bool) (f1 f2 : Nat) :
    algebraic b f1 + algebraic b f2 = algebraic b (f1 + f2) := by
  cases b <;> simp only [algebraic] <;> split_ifs <;> omega

theorem algebraic_add_of_unlike {b1 b2 : Bool} (h : b1 ≠ b2) (f1 f2 : Nat) :
    algebraic b1 f1 + algebraic b2 f2 =
      if f2 ≤ f1 then algebraic b1 (f1 - f2) else algebraic b2 (f2 - f1) := by
  obtain rfl : b2 = !b1 := (Bool.not_eq.2 h).symm
  cases b1 <;> simp [algebraic] <;> split_ifs <;> omega

theorem addFractions_of_like (b : Bool) (f1 f2 : Nat) (c : Int) :
    addFractions b f1 b f2 c = if 2 ^ 54 ≤ f1 + f2 then (b, (f1 + f2) / 2, c + 1) else (b, f1 + f2, c) := by
  rw [addFractions, if_neg (not_not.2 rfl)]

theorem addFractions_of_unlike {b1 b2 : Bool} (h : b1 ≠ b2) (f1 f2 : Nat) (c : Int) :
    addFractions b1 f1 b2 f2 c = if f2 ≤ f1 then (b1, f1 - f2, c) else (b2, f2 - f1, c) := by
  rw [addFractions, if_pos h]

/-- The sign of a sum is that of its value; a sum of zero has the sign of the operand with the smaller
characteristic. -/
theorem addFractions_sign (b1 b2 : Bool) (f1 f2 : Nat) (c : Int) {v : Int}
    (hv : v = algebraic b1 f1 + algebraic b2 f2) :
    (addFractions b1 f1 b2 f2 c).1 = if v = 0 then b1 else decide (v < 0) := by
  by_cases hb : b1 = b2
  · subst hb
    rw [hv, algebraic_add_of_like, sign_of_algebraic (.inr rfl), addFractions_of_like]
    split <;> rfl
  · rw [hv, algebraic_add_of_unlike hb, addFractions_of_unlike hb]
    by_cases hle : f2 ≤ f1
    · rw [if_pos hle, if_pos hle, sign_of_algebraic (.inr rfl)]
    · rw [if_neg hle, if_neg hle, sign_of_algebraic (.inl (by omega))]

/-- The fraction of a sum is the size of its value, halved with the characteristic raised on a carry. -/
theorem addFractions_fraction {b1 b2 : Bool} {f1 f2 : Nat} (c : Int) {v : Int} (h1 : f1 < 2 ^ 54) (h2 : f2 < 2 ^ 54)
    (hv : v = algebraic b1 f1 + algebraic b2 f2) :
    (addFractions b1 f1 b2 f2 c).2 = if v.natAbs < 2 ^ 54 then (v.natAbs, c) else (v.natAbs / 2, c + 1) := by
  by_cases hb : b1 = b2
  · subst hb
    rw [hv, algebraic_add_of_like, natAbs_algebraic, addFractions_of_like]
    by_cases hcarry : 2 ^ 54 ≤ f1 + f2
    · rw [if_pos hcarry, if_neg (Nat.not_lt.2 hcarry)]
    · rw [if_neg hcarry, if_pos (Nat.not_le.1 hcarry)]
  · rw [hv, algebraic_add_of_unlike hb, addFractions_of_unlike hb]
    by_cases hle : f2 ≤ f1
    · rw [if_pos hle, if_pos hle, natAbs_algebraic, if_pos (by omega)]
    · rw [if_neg hle, if_neg hle, natAbs_algebraic, if_pos (by omega)]

/-- The operand with the smaller characteristic is aligned under the other; AC's fraction keeps its sign joined with P,
and its characteristic loses P and Q, when AC's is the larger (R231). -/
theorem fadd_eq_addAligned {ac : Acc} {y : Word} {lo hi : Unpacked} (norm : Bool)
    (h : if (unpackWord y).ch < (unpackAcc ac).ch then
        lo = unpackWord y ∧ hi = { unpackAcc ac with s := ac.s || ac.p, ch := (unpackAcc ac).ch % 256 }
      else lo = unpackAcc ac ∧ hi = unpackWord y) :
    fadd ac y norm = addAligned lo hi norm ∧ lo.fr < 2 ^ 27 ∧ hi.fr < 2 ^ 27 := by
  simp only [fadd]
  split_ifs at h ⊢ <;> obtain ⟨rfl, rfl⟩ := h
  · exact ⟨rfl, unpackWord_fr_lt y, unpackAcc_fr_lt ac⟩
  · exact ⟨rfl, unpackAcc_fr_lt ac, unpackWord_fr_lt y⟩

section
variable {lo hi : Unpacked} {v : Int}

theorem addAligned_signs (norm : Bool)
    (hv : v = algebraic lo.s (alignedFraction lo hi.ch) + algebraic hi.s (hi.fr * 2 ^ 27)) :
    (addAligned lo hi norm).divCheck = false ∧ signOf (addAligned lo hi norm).mq = (addAligned lo hi norm).ac.s ∧
      (addAligned lo hi norm).ac.s = if v = 0 then lo.s else decide (v < 0) := by
  rw [addAligned_eq_packSum]
  obtain ⟨hac, hmq, hcheck⟩ := packSum_signs norm
    (addFractions lo.s (alignedFraction lo hi.ch) hi.s (hi.fr * 2 ^ 27) hi.ch)
  exact ⟨hcheck, hmq.trans hac.symm, hac.trans (addFractions_sign _ _ _ _ _ hv)⟩

theorem addAligned_packed_zero (hlo : lo.fr < 2 ^ 27) (hhi : hi.fr < 2 ^ 27)
    (hv : v = algebraic lo.s (alignedFraction lo hi.ch) + algebraic hi.s (hi.fr * 2 ^ 27)) (hzero : v = 0) :
    Packed (addAligned lo hi true) 0 0 0 := by
  have hsum := addFractions_fraction hi.ch (alignedFraction_lt hlo hi.ch) (by omega) hv
  rw [hzero, if_pos (by decide)] at hsum
  rw [addAligned_eq_packSum]
  exact packSum_of_zero (congrArg Prod.fst hsum)

/-- A sum with a carry has its top bit one already, so normalizing shifts only sums without one. -/
theorem addAligned_packed {norm : Bool} (hlo : lo.fr < 2 ^ 27) (hhi : hi.fr < 2 ^ 27)
    (hv : v = algebraic lo.s (alignedFraction lo hi.ch) + algebraic hi.s (hi.fr * 2 ^ 27))
    (h : norm = false ∨ v ≠ 0) :
    ∃ (k f : Nat) (c : Int), Packed (addAligned lo hi norm) c (c - 27) f ∧ (norm = true → 2 ^ 53 ≤ f) ∧
      (norm = false → k = 0) ∧
      if v.natAbs < 2 ^ 54 then f = v.natAbs * 2 ^ k ∧ c = hi.ch - k else f = v.natAbs / 2 ∧ c = hi.ch + 1 := by
  have haligned := alignedFraction_lt hlo hi.ch
  have hsum := addFractions_fraction hi.ch haligned (show hi.fr * 2 ^ 27 < 2 ^ 54 by omega) hv
  have hbound : v.natAbs < 2 ^ 55 := by subst hv; unfold algebraic; split <;> split <;> omega
  rw [addAligned_eq_packSum]
  generalize addFractions lo.s (alignedFraction lo hi.ch) hi.s (hi.fr * 2 ^ 27) hi.ch = t at hsum ⊢
  obtain ⟨b, f, c⟩ := t
  by_cases hcarry : v.natAbs < 2 ^ 54
  · simp only [hcarry, if_true] at hsum ⊢
    obtain ⟨rfl, rfl⟩ := Prod.mk.inj hsum
    obtain ⟨k, hpacked, htop, hk⟩ := packSum_packed (t := (b, v.natAbs, hi.ch)) hcarry
      (h.imp_right Int.natAbs_ne_zero.2)
    exact ⟨k, _, _, hpacked, htop, hk, rfl, rfl⟩
  · simp only [hcarry, if_false] at hsum ⊢
    obtain ⟨rfl, rfl⟩ := Prod.mk.inj hsum
    obtain ⟨k, hpacked, -, -⟩ := packSum_packed (norm := norm) (t := (b, v.natAbs / 2, hi.ch + 1))
      (show v.natAbs / 2 < 2 ^ 54 by omega) (.inr (show v.natAbs / 2 ≠ 0 by omega))
    obtain rfl : k = 0 := by
      by_contra hk
      have hpow : 2 ^ 1 ≤ 2 ^ k := Nat.pow_le_pow_right (by decide) (by omega)
      have hlt : v.natAbs / 2 * 2 ^ k < 2 ^ 54 := hpacked.1
      have hge : v.natAbs / 2 * 2 ^ 1 ≤ v.natAbs / 2 * 2 ^ k := Nat.mul_le_mul_left _ hpow
      omega
    refine ⟨0, v.natAbs / 2, hi.ch + 1, by simpa using hpacked, fun _ => by omega, fun _ => rfl, rfl, rfl⟩

end

/-! ## Products -/

theorem magnitude_eq_zero_iff (y : Word) : magnitude y = 0 ↔ (unpackWord y).ch = 0 ∧ (unpackWord y).fr = 0 := by
  rw [unpackWord_ch, unpackWord_fr, ← BitVec.toNat_inj, show (0 : BitVec 35).toNat = 0 from rfl]
  omega

theorem fractions_product_lt (x y : Word) : (unpackWord x).fr * (unpackWord y).fr < 2 ^ 54 :=
  calc (unpackWord x).fr * (unpackWord y).fr
      < 2 ^ 27 * 2 ^ 27 := Nat.mul_lt_mul'' (unpackWord_fr_lt x) (unpackWord_fr_lt y)
    _ = 2 ^ 54 := by rw [← Nat.pow_add]

theorem fmul_signs (mq y : Word) (norm : Bool) :
    (fmul mq y norm).divCheck = false ∧ (fmul mq y norm).ac.s = (signOf mq != signOf y) ∧
      signOf (fmul mq y norm).mq = (signOf mq != signOf y) := by
  simp only [fmul]
  split_ifs <;> exact ⟨rfl, rfl, signOf_wordOfParts _ _ _⟩

theorem fmul_of_zero {y : Word} (mq : Word) (norm : Bool) (h : magnitude y = 0) : Packed (fmul mq y norm) 0 0 0 := by
  simp only [fmul, if_pos ((magnitude_eq_zero_iff y).1 h), ← pack_zero]
  exact packed_pack _ 0 0 (by decide)

/-- A normalized product is shifted one place when its top bit is zero; with an upper half of zero even so, its
characteristics are zero. -/
theorem fmul_of_ne_zero {y mq : Word} {norm : Bool} {p : Nat} {c : Int} (h : magnitude y ≠ 0)
    (hp : p = (unpackWord mq).fr * (unpackWord y).fr) (hc : c = (unpackWord mq).ch + (unpackWord y).ch - 128) :
    if norm = false ∨ 2 ^ 53 ≤ p then Packed (fmul mq y norm) c (c - 27) p
    else if 2 ^ 26 ≤ p then Packed (fmul mq y norm) (c - 1) (c - 28) (2 * p)
    else Packed (fmul mq y norm) 0 0 (2 * p) := by
  have hlt := fractions_product_lt mq y
  simp only [fmul, if_neg (mt (magnitude_eq_zero_iff y).2 h), ← hp, ← hc] at hlt ⊢
  cases norm with
  | false => exact packed_pack _ c (c - 27) hlt
  | true =>
    simp only [if_true, Bool.true_eq_false, false_or]
    by_cases htop : 2 ^ 53 ≤ p
    · simp only [if_pos htop, if_neg (Nat.not_lt.2 htop), if_pos (show p / 2 ^ 27 ≠ 0 by omega)]
      exact packed_pack _ c (c - 27) hlt
    · simp only [if_neg htop, if_pos (Nat.not_le.1 htop), Nat.mul_comm p 2]
      split_ifs with hhigh hupper hupper
      · rw [show c - 28 = c - 1 - 27 by omega]
        exact packed_pack _ (c - 1) (c - 1 - 27) (by omega)
      · omega
      · omega
      · exact packed_pack _ 0 0 (by omega)

/-! ## Rounding -/

theorem fround_of_no_round {mq : Word} (ac : Acc) (h : position mq 9 = false) : fround ac mq = (ac, noSpill) := by
  simp [fround, h]

/-- Rounding a fraction of ones leaves one half, with the characteristic raised. -/
theorem fround_of_carry {ac : Acc} {mq : Word} (h : position mq 9 = true)
    (hones : ac.m.toNat % 2 ^ 27 = 2 ^ 27 - 1) :
    (fround ac mq).1.m.toNat = (ac.m.toNat / 2 ^ 27 + 1) % 2 ^ 10 * 2 ^ 27 + 2 ^ 26 ∧
      (fround ac mq).2 = if 255 < ac.m.toNat / 2 ^ 27 + 1 then acOverSpill else noSpill := by
  have hcarry : 2 ^ 27 ≤ ac.m.toNat % 2 ^ 27 + 1 := by omega
  simp only [fround, if_pos h, unpackAcc_fr, unpackAcc_ch, if_pos hcarry, accOfParts_m_toNat]
  refine ⟨by omega, ?_⟩
  congr 1
  exact propext (by omega)

theorem fround_of_no_carry {ac : Acc} {mq : Word} (h : position mq 9 = true)
    (hones : ac.m.toNat % 2 ^ 27 ≠ 2 ^ 27 - 1) :
    (fround ac mq).1.m.toNat = ac.m.toNat + 1 ∧
      (fround ac mq).2 = if 255 < ac.m.toNat / 2 ^ 27 then acOverSpill else noSpill := by
  have hm := ac.m.isLt
  have hcarry : ¬ 2 ^ 27 ≤ ac.m.toNat % 2 ^ 27 + 1 := by omega
  simp only [fround, if_pos h, unpackAcc_fr, unpackAcc_ch, if_neg hcarry, accOfParts_m_toNat]
  refine ⟨by omega, ?_⟩
  congr 1
  exact propext (by omega)

theorem fround_s (ac : Acc) (mq : Word) : (fround ac mq).1.s = ac.s := by
  unfold fround
  split
  · exact accOfParts_s _ _ _
  · rfl

/-! ## Quotients -/

theorem fdiv_divCheck_iff (n : Acc) (d : Word) :
    (fdiv n d).divCheck = true ↔ 2 * (unpackWord d).fr ≤ (unpackAcc n).fr := by
  simp only [fdiv]
  split_ifs with h <;> simp [h]

theorem fdiv_of_zero {n : Acc} {d : Word} (h : (fdiv n d).divCheck = false) (hzero : (unpackAcc n).fr = 0) :
    fdiv n d = { ac := accOfParts false 0 0, mq := wordOfParts (n.s != signOf d) 0 0, sp := noSpill,
                 divCheck := false } := by
  have hcheck := mt (fdiv_divCheck_iff n d).2 (Bool.eq_false_iff.1 h)
  simp only [fdiv, if_neg hcheck, if_pos hzero]
  rfl

/-- With a dividend fraction that is not zero the quotient of the fractions, `f` being the dividend's made as long as
a product, is MQ's fraction and the remainder AC's (R233). -/
theorem fdiv_of_ne_zero {n : Acc} {d : Word} {f : Nat} {c : Int} (h : (fdiv n d).divCheck = false)
    (hne : (unpackAcc n).fr ≠ 0)
    (hf : f = (unpackAcc n).fr * 2 ^ (if (unpackWord d).fr ≤ (unpackAcc n).fr then 26 else 27))
    (hc : c = if (unpackWord d).fr ≤ (unpackAcc n).fr then (unpackAcc n).ch % 256 + 1 else (unpackAcc n).ch % 256) :
    fdiv n d = { ac := accOfParts n.s (c - 27) (f % (unpackWord d).fr)
                 mq := wordOfParts (n.s != signOf d) (c - (unpackWord d).ch + 128) (f / (unpackWord d).fr)
                 sp := { spillOf (c - 27) (c - (unpackWord d).ch + 128) with acOverflow := false }
                 divCheck := false } := by
  have hcheck := mt (fdiv_divCheck_iff n d).2 (Bool.eq_false_iff.1 h)
  have hhalf : (unpackAcc n).fr * 2 ^ 27 / 2 = (unpackAcc n).fr * 2 ^ 26 := by omega
  subst hf hc
  simp only [fdiv, if_neg hcheck, if_neg hne, hhalf, decide_eq_true_eq]
  split_ifs <;> rfl

/-- With no divide check the quotient of the fractions fits the 27 positions of a fraction. -/
theorem fraction_quotient_lt {a b : Nat} (h : ¬ 2 * b ≤ a) :
    a * 2 ^ (if b ≤ a then 26 else 27) / b < 2 ^ 27 := by
  apply Nat.div_lt_of_lt_mul
  split <;> omega

/-- The fractions left by a divide are the quotient and the remainder, neither cut off by its field. -/
theorem fdiv_fractions {n : Acc} {d : Word} (h : (fdiv n d).divCheck = false) (hne : (unpackAcc n).fr ≠ 0) :
    (unpackWord (fdiv n d).mq).fr * (unpackWord d).fr + (unpackAcc (fdiv n d).ac).fr =
        (unpackAcc n).fr * 2 ^ (if (unpackWord d).fr ≤ (unpackAcc n).fr then 26 else 27) ∧
      (unpackAcc (fdiv n d).ac).fr < (unpackWord d).fr := by
  have hfits := mt (fdiv_divCheck_iff n d).2 (Bool.eq_false_iff.1 h)
  have hquotient := fraction_quotient_lt hfits
  have hd := unpackWord_fr_lt d
  rw [fdiv_of_ne_zero h hne rfl rfl]
  generalize (unpackAcc n).fr * 2 ^ (if (unpackWord d).fr ≤ (unpackAcc n).fr then 26 else 27) = f at hquotient ⊢
  have hremainder : f % (unpackWord d).fr < (unpackWord d).fr := Nat.mod_lt f (by omega)
  rw [unpackWord_wordOfParts_fr, unpackAcc_accOfParts_fr, Nat.mod_eq_of_lt hquotient,
    Nat.mod_eq_of_lt (hremainder.trans hd)]
  exact ⟨Nat.div_add_mod' f _, hremainder⟩

/-- Settles O26: the functions of the record by what they leave in the two registers. -/
theorem floatingContent : Obligations.FloatingContent := by
  unfold Obligations.FloatingContent
  simp only [numerics_fadd, numerics_fmul, numerics_fround, numerics_fdiv]
  refine ⟨fun ac y norm lo hi g v r hlohi hg hv hr => ?sum, fun mq y norm p c r hp hc hr => ?product,
    fun ac mq => ⟨fround_of_no_round ac, fun hround => ⟨fround_s ac mq, ?round⟩⟩,
    fun n d un ud r hun hud hr => ?quotient⟩
  case sum =>
    obtain ⟨hadd, hlo, hhi⟩ := fadd_eq_addAligned norm hlohi
    rw [hadd] at hr
    replace hg : g = alignedFraction lo hi.ch := hg
    subst hr hg
    obtain ⟨hcheck, hmq, hac⟩ := addAligned_signs norm hv
    refine ⟨hcheck, hmq, hac, fun hnorm hzero => ?_, addAligned_packed hlo hhi hv⟩
    subst hnorm
    exact addAligned_packed_zero hlo hhi hv hzero
  case product =>
    subst hr
    obtain ⟨hcheck, hac, hmq⟩ := fmul_signs mq y norm
    refine ⟨hcheck, hac, hmq.trans hac.symm, ?_⟩
    by_cases hzero : magnitude y = 0
    · rw [if_pos hzero]
      exact fmul_of_zero mq norm hzero
    · rw [if_neg hzero]
      exact fmul_of_ne_zero hzero hp hc
  case round =>
    by_cases hones : ac.m.toNat % 2 ^ 27 = 2 ^ 27 - 1
    · rw [if_pos hones]
      exact fround_of_carry hround hones
    · rw [if_neg hones]
      exact fround_of_no_carry hround hones
  case quotient =>
    subst hun hud hr
    refine ⟨fdiv_divCheck_iff n d, fun hcheck hzero => ?zero, fun hcheck hne c hc => ?nonzero⟩
    case zero =>
      rw [fdiv_of_zero hcheck hzero]
      exact ⟨accOfParts_zero_m false, wordOfParts_zero _, rfl⟩
    case nonzero =>
      obtain ⟨hvalue, hbelow⟩ := fdiv_fractions hcheck hne
      refine ⟨hvalue, hbelow, ?_⟩
      rw [fdiv_of_ne_zero hcheck hne rfl hc]
      exact ⟨accOfParts_s _ _ _, signOf_wordOfParts _ _ _, unpackAcc_accOfParts_ch _ _ _,
        unpackWord_wordOfParts_ch _ _ _, rfl, decide_eq_true_iff, decide_eq_true_iff, decide_eq_true_iff⟩

/-! ## How the instructions end -/

/-- With no turn inside, a floating-point instruction ends in the trap or in the state it has written (R202). -/
theorem afterFloating_of_quiet {i : Instr} {sp : Spill} (hq : s.inside = []) :
    afterFloating i sp s = .next (if spillAny sp then takeTrap (.floatingPoint i sp) s else s) := by
  unfold afterFloating
  split
  · exact raise_of_quiet hq
  · rfl

theorem afterFloating_of_spill {i : Instr} {sp : Spill} (hq : s.inside = []) (h : spillAny sp = true) :
    afterFloating i sp s = .next (takeTrap (.floatingPoint i sp) s) := by
  rw [afterFloating_of_quiet hq, if_pos h]

theorem afterFloating_of_no_spill {i : Instr} {sp : Spill} (h : spillAny sp = false) :
    afterFloating i sp s = .next s := by
  rw [afterFloating, h]
  rfl

/-- Exchanging the registers of a report leaves it as empty as it was. -/
theorem spillAny_exchangeSpill (sp : Spill) : spillAny (exchangeSpill sp) = spillAny sp := by
  simp only [spillAny, exchangeSpill]
  ac_rfl

theorem floatingAdd_of_load {i : Instr} {g : OperandSign} {norm : Bool} (hq : s.inside = [])
    (h : effectiveAddress .double o s = .ok ea) (hw : s.load ea = some w) :
    floatingAdd i g norm o s = finishFloating i (Config.numerics.fadd s.ac (adjustSign g w) norm) s :=
  withOperand_of_ok hq h hw

theorem floatingMultiply_of_load {i : Instr} {norm : Bool} (hq : s.inside = [])
    (h : effectiveAddress .double o s = .ok ea) (hw : s.load ea = some w) :
    floatingMultiply i norm o s = finishFloating i (Config.numerics.fmul s.mq w norm) s :=
  withOperand_of_ok hq h hw

theorem floatingDivide_of_no_check {i : Instr} (hq : s.inside = []) (h : effectiveAddress .double o s = .ok ea)
    (hw : s.load ea = some w) (hcheck : (Config.numerics.fdiv s.ac w).divCheck = false) :
    floatingDivide i o s = finishFloating i (Config.numerics.fdiv s.ac w) s := by
  simp only [floatingDivide]
  rw [withOperand_of_ok hq h hw, if_neg (Bool.eq_false_iff.1 hcheck)]

/-- The twelve instructions that end with both result registers write what their function returns. -/
theorem exec_singleFloating (hq : s.inside = []) (h : effectiveAddress .double o s = .ok ea)
    (hw : s.load ea = some w) {p : Instr × FpResult} (hp : p ∈ singleFloating o s w)
    (hcheck : p.2.divCheck = false) : exec p.1 s = finishFloating p.1 p.2 s := by
  have hadd {i : Instr} {g : OperandSign} {norm : Bool} := floatingAdd_of_load (i := i) (g := g) (norm := norm) hq h hw
  have hmultiply {i : Instr} {norm : Bool} := floatingMultiply_of_load (i := i) (norm := norm) hq h hw
  have hdivide {i : Instr} := floatingDivide_of_no_check (i := i) hq h hw
  simp only [singleFloating, List.mem_cons, List.not_mem_nil, or_false] at hp
  rcases hp with rfl | rfl | rfl | rfl | rfl | rfl | rfl | rfl | rfl | rfl | rfl | rfl
  exacts [hadd, hadd, hadd, hadd, hadd, hadd, hadd, hadd, hmultiply, hmultiply, hdivide hcheck, hdivide hcheck]

theorem execFrn_of_ok (hq : s.inside = []) (h : effectiveAddress .double o s = .ok ea) :
    execFrn o s =
      afterFloating (.frn (formedOperand ea)) (Config.numerics.fround s.ac s.mq).2
        { s with ac := (Config.numerics.fround s.ac s.mq).1 } :=
  withAddress_of_ok hq h

theorem execFrd_of_no_check {r : FpResult} (hq : s.inside = []) (h : effectiveAddress .double o s = .ok ea)
    (hw : s.load ea = some w) (hfits : fitsWord s.ac = true)
    (hr : r = Config.numerics.fdiv (Acc.ofSigned w) s.ac.signedWord) (hcheck : r.divCheck = false) :
    execFrd o s =
      afterFloating (.frd o) (exchangeSpill r.sp)
        { s with ac := Acc.ofSigned r.mq, mq := signed (signOf w) r.ac.mag } := by
  simp only [execFrd]
  rw [withAddress_of_ok hq h, if_pos hfits, withWord_of_load hq hw, ← hr, if_neg (Bool.eq_false_iff.1 hcheck)]

/-- Settles O23: with an empty report the state written is the next state. -/
theorem singleFloatingCompletes : Obligations.SingleFloatingCompletes := by
  unfold Obligations.SingleFloatingCompletes
  intro o s ea hq h
  refine ⟨fun hspill => ?frn,
    fun w hw => ⟨fun p hp hcheck hspill => ?both, fun r hr hacq hacp hcheck hspill => ?frd⟩⟩
  case frn => exact (execFrn_of_ok hq h).trans (afterFloating_of_no_spill hspill)
  case both => exact (exec_singleFloating hq h hw hp hcheck).trans (afterFloating_of_no_spill hspill)
  case frd =>
    exact (execFrd_of_no_check hq h hw (fitsWord_of_zero hacq hacp) hr hcheck).trans
      (afterFloating_of_no_spill ((spillAny_exchangeSpill r.sp).trans hspill))

/-- FIX out of range reports an AC overflow, with both registers free (R422, D25). -/
theorem execFix_of_overflow (hq : s.inside = []) (h : effectiveAddress .double o s = .ok ea) (hw : s.load ea = some w)
    (hover : fixOverflows w = true) :
    execFix o s =
      .next (takeTrap (.floatingPoint (.fix o) acOverSpill)
        { s with ac := Config.fixAc s.tick, mq := Config.fixMq s.tick }) := by
  simp only [execFix, numerics_fix]
  rw [withOperand_of_ok hq h hw]
  simp only [fix_of_overflow hover]
  exact raise_of_quiet hq

/-- Settles O25: the trap is taken from the state in which the results are written. -/
theorem spillsTrap : Obligations.SpillsTrap := by
  unfold Obligations.SpillsTrap
  intro o s ea hq h
  refine ⟨fun hspill => ?frn, fun w hw => ⟨fun p hp hcheck hspill => ?both,
    fun r hr hacq hacp hcheck hspill => ?frd, fun hover => ?fix⟩⟩
  case frn => exact (execFrn_of_ok hq h).trans (afterFloating_of_spill hq hspill)
  case both => exact (exec_singleFloating hq h hw hp hcheck).trans (afterFloating_of_spill hq hspill)
  case frd =>
    exact (execFrd_of_no_check hq h hw (fitsWord_of_zero hacq hacp) hr hcheck).trans
      (afterFloating_of_spill hq ((spillAny_exchangeSpill r.sp).trans hspill))
  case fix => exact ⟨Config.fixAc s.tick, Config.fixMq s.tick, execFix_of_overflow hq h hw (decide_eq_true hover)⟩

/-! ## Adding to the exponent -/

theorem withExponent_m_toNat (a : Acc) (r : Int) :
    (withExponent a r).m.toNat = a.q.toNat * 2 ^ 36 + (r % 2 ^ 9).toNat * 2 ^ 27 + a.m.toNat % 2 ^ 27 := by
  simp only [withExponent]
  rw [BitVec.toNat_cast, toNat_append_add, toNat_append_add, BitVec.toNat_ofBool, BitVec.toNat_ofInt,
    BitVec.extractLsb'_toNat, Nat.shiftRight_zero]
  omega

theorem withExponent_q (a : Acc) (r : Int) : (withExponent a r).q = a.q := by
  simp only [Acc.q, withExponent, BitVec.getLsbD_cast, BitVec.getLsbD_append]
  cases a.m.getLsbD 36 <;> rfl

/-- The exponent and the nine address bits, the latter as a two's complement number (D24). -/
theorem exponentSum_eq (a : Acc) (ea : Addr) :
    exponentSum a ea = ((a.m.toNat / 2 ^ 27 % 2 ^ 9 : Nat) : Int) +
      if ea.toNat % 2 ^ 9 < 2 ^ 8 then ((ea.toNat % 2 ^ 9 : Nat) : Int)
      else ((ea.toNat % 2 ^ 9 : Nat) : Int) - 2 ^ 9 := by
  rw [exponentSum, BitVec.toInt_eq_toNat_cond, BitVec.extractLsb'_toNat, BitVec.extractLsb'_toNat,
    Nat.shiftRight_eq_div_pow, Nat.shiftRight_zero]
  congr 1
  split_ifs <;> omega

theorem execAdxp_of_ok (hq : s.inside = []) (h : effectiveAddress .double o s = .ok ea) :
    execAdxp o s =
      afterFloating (.adxp o) (exponentSpill (exponentSum s.ac ea))
        { s with ac := withExponent s.ac (exponentSum s.ac ea) } :=
  withAddress_of_ok hq h

/-- Settles O27: the accumulator is that of the sum modulo 2^9, and the sum's range says which report there is. -/
theorem addToExponent : Obligations.AddToExponent := by
  unfold Obligations.AddToExponent
  intro o s ea hq h
  have hexec := execAdxp_of_ok hq h
  have hm := withExponent_m_toNat s.ac (exponentSum s.ac ea)
  have hsum := exponentSum_eq s.ac ea
  refine ⟨withExponent s.ac (exponentSum s.ac ea), rfl, withExponent_q _ _, by omega, fun r hr => ?_⟩
  rw [← hsum] at hr
  subst hr
  refine ⟨?exponent, fun hle hge => ?fits, fun hover => ?above, fun hunder => ?below⟩
  case exponent => omega
  case fits =>
    rw [exponentSpill, if_neg (by omega), if_neg (by omega)] at hexec
    exact hexec.trans (afterFloating_of_no_spill rfl)
  case above =>
    rw [exponentSpill, if_pos hover] at hexec
    exact hexec.trans (afterFloating_of_spill hq rfl)
  case below =>
    rw [exponentSpill, if_neg (by omega), if_pos hunder] at hexec
    exact hexec.trans (afterFloating_of_spill hq rfl)

/-! ## Double precision -/

theorem exec_doubleFloating (hq : s.inside = []) (h : effectiveAddress .double o s = .ok ea)
    (h0 : s.load ea = some w0) (h1 : s.load (ea + 1) = some w1) {p : Instr × FpResult}
    (hp : p ∈ doubleFloating o s w0 w1) : exec p.1 s = finishFloating p.1 p.2 s := by
  have hadd {i : Instr} {g : OperandSign} {norm : Bool} : doubleAdd i g norm o s =
      finishFloating i (Config.numerics.dfadd s.ac s.mq (adjustSign g w0) (adjustSign g w1) norm) s :=
    withDoubleOperand_of_ok hq h h0 h1
  simp only [doubleFloating, List.mem_cons, List.not_mem_nil, or_false] at hp
  rcases hp with rfl | rfl | rfl | rfl | rfl | rfl | rfl | rfl <;> exact hadd

/-- The end of a double-precision divide with no turn inside: a divide check, a spill, or the state written. -/
theorem finishDoubleDivide_of_quiet {i : Instr} {r : FpResult} (hq : s.inside = []) :
    finishDoubleDivide i r s =
      if r.divCheck then .next (takeTrap .divideCheck (scratchIndicators s))
      else finishFloating i r (scratchIndicators s) := by
  rw [finishDoubleDivide, raise_of_quiet (s := scratchIndicators s) hq]

/-- The multiplies and divides go on from a state with SI free; only the divides look at a divide check. -/
theorem exec_doubleProducts (hq : s.inside = []) (h : effectiveAddress .double o s = .ok ea)
    (h0 : s.load ea = some w0) (h1 : s.load (ea + 1) = some w1) {p : Instr × FpResult}
    (hp : p ∈ doubleProducts o s w0 w1) :
    exec p.1 s =
      if (p.1 = .dfdt o ∨ p.1 = .dfrd o) ∧ p.2.divCheck = true then
        .next (takeTrap .divideCheck (scratchIndicators s))
      else finishFloating p.1 p.2 (scratchIndicators s) := by
  have hoperands {k} := withDoubleOperand_of_ok (k := k) hq h h0 h1
  simp only [doubleProducts, List.mem_cons, List.not_mem_nil, or_false] at hp
  rcases hp with rfl | rfl | rfl | rfl
  case inl | inr.inl =>
    rw [if_neg (by simp)]
    exact hoperands
  case inr.inr.inl | inr.inr.inr =>
    simp only [true_or, or_true, true_and]
    exact hoperands.trans (finishDoubleDivide_of_quiet hq)

/-- Settles O24: whatever the open functions return, the registers written are theirs. -/
theorem doubleFloatingOutcomes : Obligations.DoubleFloatingOutcomes := by
  unfold Obligations.DoubleFloatingOutcomes
  intro o s ea w0 w1 hq h h0 h1
  refine ⟨fun p hp u hu => ?sum, fun p hp => ⟨Config.doubleSi s.tick, fun u hu => ?product⟩⟩
  case sum =>
    subst hu
    exact (exec_doubleFloating hq h h0 h1 hp).trans (afterFloating_of_quiet hq)
  case product =>
    subst hu
    have hfinish := afterFloating_of_quiet (i := p.1) (sp := p.2.sp)
      (s := { scratchIndicators s with ac := p.2.ac, mq := p.2.mq }) hq
    rw [exec_doubleProducts hq h h0 h1 hp]
    by_cases hcheck : (p.1 = .dfdt o ∨ p.1 = .dfrd o) ∧ p.2.divCheck = true
    · rw [if_pos hcheck, if_pos hcheck]
      rfl
    · rw [if_neg hcheck, if_neg hcheck]
      exact hfinish

end Sys2Proof.Machine
end

section
/-! Shifting operations (spec/43_shifting.md): the shifted register, or two registers put side by side, as one number.
The joined register is first read as a number, then a shifted number is read back from the parts it is written to. -/

namespace Sys2Proof.Machine

variable {s : State} {o : Operand} {ea : Addr} {n : Nat}

theorem withCount_of_ok {k : Nat → State → Result} (hq : s.inside = []) (h : effectiveAddress .double o s = .ok ea)
    (hn : n = ea.toNat % 256) : withCount o s k = k n s := by
  subst hn
  exact withAddress_of_ok hq h

/-! ## Overflow -/

/-- The ones that pass P are those that multiplying by `2 ^ n` brings to its place or above (R241, R243, R245); with
count zero there are none. -/
theorem shiftOverflows_iff (v width n : Nat) :
    shiftOverflows v width n = true ↔ 2 ^ width ≤ v % 2 ^ width * 2 ^ n := by
  have hlt : v % 2 ^ width < 2 ^ width := Nat.mod_lt _ (Nat.two_pow_pos width)
  rw [shiftOverflows, Bool.and_eq_true, decide_eq_true_eq, decide_eq_true_eq, ← Nat.pos_iff_ne_zero,
    Nat.div_pos_iff, and_iff_right (Nat.two_pow_pos _)]
  generalize v % 2 ^ width = low at hlt
  rcases le_or_gt n width with hle | hgt
  · have hpow : 2 ^ width = 2 ^ (width - n) * 2 ^ n := by rw [← Nat.pow_add, Nat.sub_add_cancel hle]
    rw [Nat.min_eq_left hle, hpow, Nat.mul_le_mul_right_iff (Nat.two_pow_pos n), and_iff_right_iff_imp]
    intro hlow
    exact Nat.pos_of_ne_zero fun hzero => Nat.not_lt.2 hlow (by rwa [hzero, Nat.sub_zero])
  · have hpow : 2 ^ width ≤ 2 ^ n := Nat.pow_le_pow_right Nat.two_pos hgt.le
    rw [Nat.min_eq_right hgt.le, Nat.sub_self, Nat.pow_zero, and_iff_right (Nat.one_le_of_lt hgt)]
    exact ⟨fun hone => hpow.trans (Nat.le_mul_of_pos_left _ hone),
      fun hpast => Nat.pos_of_mul_pos_right ((Nat.two_pow_pos width).trans_le hpast)⟩

theorem ov_or_shiftOverflows_iff (v width n : Nat) :
    (s.ov || shiftOverflows v width n) = true ↔ s.ov = true ∨ 2 ^ width ≤ v % 2 ^ width * 2 ^ n := by
  rw [Bool.or_eq_true, shiftOverflows_iff]

/-! ## Joined registers -/

theorem longRegister_eq (s : State) : longRegister s = s.ac.m.toNat * 2 ^ 35 + (magnitude s.mq).toNat :=
  toNat_append_add _ _

theorem logicalRegister_eq (s : State) : logicalRegister s = s.ac.m.toNat * 2 ^ 36 + s.mq.toNat :=
  toNat_append_add _ _

/-- A number that fits AC's 37 positions with `k` of the MQ below them is what these hold of it. -/
theorem joined_parts {v k : Nat} (hv : v < 2 ^ (37 + k)) :
    (BitVec.ofNat 37 (v / 2 ^ k)).toNat * 2 ^ k + (BitVec.ofNat k v).toNat = v := by
  have hhigh : v / 2 ^ k < 2 ^ 37 := Nat.div_lt_of_lt_mul (by rwa [Nat.mul_comm, ← Nat.pow_add])
  rw [BitVec.toNat_ofNat, BitVec.toNat_ofNat, Nat.mod_eq_of_lt hhigh, Nat.div_add_mod']

theorem joined_left_shift (v n k : Nat) :
    (BitVec.ofNat 37 (v * 2 ^ n % 2 ^ (37 + k) / 2 ^ k)).toNat * 2 ^ k +
      (BitVec.ofNat k (v * 2 ^ n % 2 ^ (37 + k))).toNat = v * 2 ^ n % 2 ^ (37 + k) :=
  joined_parts (Nat.mod_lt _ (Nat.two_pow_pos _))

theorem joined_right_shift {v : Nat} (n : Nat) {k : Nat} (hv : v < 2 ^ (37 + k)) :
    (BitVec.ofNat 37 (v / 2 ^ n / 2 ^ k)).toNat * 2 ^ k + (BitVec.ofNat k (v / 2 ^ n)).toNat = v / 2 ^ n :=
  joined_parts ((Nat.div_le_self _ _).trans_lt hv)

/-! ## Rotation -/

/-- A position of the rotated word is the one `n` places to its right, S following 35 (R247). -/
theorem position_rotateLeft (w : Word) (n : Nat) {p : Nat} (hp : p < 36) :
    position (w.rotateLeft (n % 36)) p = position w ((p + n) % 36) := by
  have hsum : (p + n) % 36 = if 35 - p < n % 36 then p + n % 36 - 36 else p + n % 36 := by split_ifs <;> omega
  rw [position, position, hsum, BitVec.getLsbD_rotateLeft, Nat.mod_mod]
  split_ifs with hround
  · rw [decide_eq_true hround, cond_true]
    congr 1; omega
  · rw [decide_eq_false hround, cond_false, decide_eq_true (by omega), Bool.true_and]
    congr 1; omega

/-! ## The instructions -/

/-- What holds of the state a shift gives for its count holds after the instruction. -/
theorem exists_next_of_count {k : Nat → State → State} {P : State → Prop} (hq : s.inside = [])
    (h : effectiveAddress .double o s = .ok ea) (hn : n = ea.toNat % 256) (hP : P (k n s)) :
    ∃ t, withCount o s (fun n s => .next (k n s)) = .next t ∧ P t :=
  ⟨k n s, withCount_of_ok hq h hn, hP⟩

/-- Settles O28: the registers, read as one number, hold the shifted number. -/
theorem shifts : Obligations.Shifts := by
  unfold Obligations.Shifts
  intro o s ea n hq h hn
  have hafter {k P} := exists_next_of_count (k := k) (P := P) hq h hn
  refine ⟨?als, ?ars, fun v hv => ?long, fun v hv => ?logical, ?rql⟩
  case als =>
    show ∃ t, execAls o s = .next t ∧ _
    exact hafter ⟨rfl, rfl, BitVec.toNat_ofNat _ _, ov_or_shiftOverflows_iff _ _ _⟩
  case ars =>
    have hfits : s.ac.m.toNat / 2 ^ n < 2 ^ 37 := (Nat.div_le_self _ _).trans_lt s.ac.m.isLt
    show ∃ t, execArs o s = .next t ∧ _
    exact hafter ⟨rfl, rfl, (BitVec.toNat_ofNat _ _).trans (Nat.mod_eq_of_lt hfits)⟩
  case long =>
    obtain rfl : v = longRegister s := hv.trans (longRegister_eq s).symm
    refine ⟨?lls, ?lrs⟩
    case lls =>
      show ∃ t, execLls o s = .next t ∧ _
      refine hafter ⟨rfl, rfl, signOf_signed _ _, ?_, ov_or_shiftOverflows_iff _ _ _⟩
      rw [magnitude_signed]
      exact joined_left_shift _ _ 35
    case lrs =>
      show ∃ t, execLrs o s = .next t ∧ _
      refine hafter ⟨rfl, rfl, signOf_signed _ _, ?_⟩
      rw [magnitude_signed]
      exact joined_right_shift n (BitVec.isLt _)
  case logical =>
    obtain rfl : v = logicalRegister s := hv.trans (logicalRegister_eq s).symm
    refine ⟨?lgl, ?lgr⟩
    case lgl =>
      show ∃ t, execLgl o s = .next t ∧ _
      exact hafter ⟨rfl, rfl, joined_left_shift _ _ 36, ov_or_shiftOverflows_iff _ _ _⟩
    case lgr =>
      show ∃ t, execLgr o s = .next t ∧ _
      exact hafter ⟨rfl, rfl, joined_right_shift n (BitVec.isLt _)⟩
  case rql =>
    show ∃ t, execRql o s = .next t ∧ _
    exact hafter ⟨rfl, fun p hp => position_rotateLeft s.mq n hp⟩

end Sys2Proof.Machine
end

section
/-! Transfers (R252, R257-R271, R281, R325-R332, R338, R339): the state in which each transfers, on which condition, and
the three ends a transfer has: not made, made, or answered by the Transfer Trap. -/

namespace Sys2Proof.Machine

variable {s : State} {o : Operand} {ea : Addr}

/-! ## The ends of a transfer -/

theorem transferIf_of_no_ttrap {b : Bool} (h : s.ttrap = false) :
    transferIf b ea s = .next { s with pc := if b then ea else s.pc } := by
  cases b with
  | true => exact transferTo_of_no_ttrap h
  | false => rfl

theorem transferIf_of_ttrap {b : Bool} (hq : s.inside = []) (h : s.ttrap = true) :
    transferIf b ea s = .next (if b then takeTrap .transfer s else s) := by
  cases b with
  | true => exact transferTo_of_ttrap hq h
  | false => rfl

/-! ## The plain transfers -/

theorem transferOn_of_ok (hq : s.inside = []) (h : effectiveAddress .double o s = .ok ea) (b : Bool) :
    transferOn b o s = transferIf b ea s := withAddress_of_ok hq h

theorem execTtr_of_ok (hq : s.inside = []) (h : effectiveAddress .double o s = .ok ea) :
    execTtr o s = .next { s with pc := ea } := by rw [execTtr, withAddress_of_ok hq h]

/-- TLQ's condition is the order of the two registers that puts minus zero just below plus zero (R271). -/
theorem lowMq_eq (a : Acc) (mq : Word) :
    lowMq a mq = decide (algebraicRank (signOf mq) (magnitude mq).toNat < algebraicRank a.s a.m.toNat) := by
  unfold lowMq algebraicRank
  generalize signOf mq = b, (magnitude mq).toNat = n, a.m.toNat = m
  rw [Bool.eq_iff_iff]
  cases b <;> cases a.s <;> simp <;> omega

/-- The plain transfers are transfers on their conditions and nothing else. -/
theorem exec_plainTransfers (o : Operand) (s : State) :
    ∀ p ∈ plainTransfers o s, exec p.1 s = transferOn p.2 o s := by
  simp only [plainTransfers, ne_eq, decide_not, ← lowMq_eq, List.forall_mem_cons]
  exact ⟨rfl, rfl, rfl, rfl, rfl, rfl, rfl, rfl, rfl, rfl, rfl, rfl, rfl, rfl, rfl, rfl, rfl, List.forall_mem_nil _⟩

/-- Settles O29: with Transfer Trap Mode off a transfer made sets the program counter. -/
theorem plainTransfersComplete : Obligations.PlainTransfersComplete := by
  unfold Obligations.PlainTransfersComplete
  refine fun o s ea hq h => ⟨execTtr_of_ok hq h, fun ht p hp => ?_⟩
  rw [exec_plainTransfers o s p hp, transferOn_of_ok hq h, transferIf_of_no_ttrap ht]
  split <;> rfl

/-! ## The transfers that do more -/

/-- Turning off a trigger that is off changes nothing. -/
theorem State.withOvOff_of_off (s : State) (h : s.ov = false) : { s with ov := false } = s := by rw [← h]

section
variable (hq : s.inside = []) (h : effectiveAddress .double o s = .ok ea)
include hq h

theorem execTov_of_ok : execTov o s = transferIf s.ov ea { s with ov := false } := withAddress_of_ok hq h

theorem execTno_of_ok : execTno o s = transferIf (!s.ov) ea { s with ov := false } := withAddress_of_ok hq h

theorem execHtr_of_ok : execHtr o s = transferTo ea { s with halted := true } := withAddress_of_ok hq h

theorem execTsl_of_allowed {w : Word} (hw : s.load ea = some w) (hv : s.violates ea = false) :
    execTsl o s = transferTo (ea + 1) (s.poke ea (joinHalves (leftHalf w) (s.il + 1))) := by
  rw [execTsl, withAddress_of_ok hq h, withUpdate_of_allowed hq hw hv, withRight]

end

section
variable (hq : s.inside = []) (h : effectiveAddress .single o s = .ok ea)
include hq h

theorem execTsx_of_ok : execTsx o s = transferTo ea (s.setX o.t1.toNat (0 - s.il)) := by
  rw [execTsx, withAddress_of_ok hq h, neg18, zero_sub]

theorem execTxf_of_ok :
    execTxf o s = transferIf (decide (s.x o.t1.toNat ≠ 1)) ea (s.setX o.t1.toNat (s.x o.t1.toNat - 1)) := by
  have hzero : s.x o.t1.toNat - 1 = 0 ↔ s.x o.t1.toNat = 1 := sub_eq_zero
  rw [execTxf, withAddress_of_ok hq h]
  simp only [tagged, ne_eq, hzero]

/-- XLF and XLB compare their sum with XR1 as it is after the sum is written (R338, R339, D29). -/
theorem closeLoop_of_ok {rel : Addr → Addr → Bool} {sum lim : Addr} (hsum : sum = s.x o.t1.toNat + s.x 2)
    (hlim : lim = if o.t1 = 1 then sum else s.x 1) :
    closeLoop rel o s = transferIf (rel sum lim) ea (s.setX o.t1.toNat sum) := by
  have hxr1 : (s.setX o.t1.toNat sum).x 1 = lim := by
    have htag : 1 = o.t1.toNat ↔ o.t1 = 1 := by bv_omega
    rw [hlim, State.x_setX (by omega)]
    simp only [htag, ne_eq, one_ne_zero, not_false_eq_true, and_true]
  rw [closeLoop, withAddress_of_ok hq h, tagged, ← hsum]
  dsimp only
  rw [hxr1]

section
variable {sum lim : Addr} (hsum : sum = s.x o.t1.toNat + s.x 2) (hlim : lim = if o.t1 = 1 then sum else s.x 1)
include hsum hlim

theorem execXlf_of_ok :
    execXlf o s = transferIf (decide (sum.toNat ≤ lim.toNat)) ea (s.setX o.t1.toNat sum) :=
  closeLoop_of_ok hq h hsum hlim

theorem execXlb_of_ok :
    execXlb o s = transferIf (decide (lim.toNat ≤ sum.toNat)) ea (s.setX o.t1.toNat sum) :=
  closeLoop_of_ok hq h hsum hlim

end

end

/-- Settles O30: each transfer that does more, run with Transfer Trap Mode off, sets the program counter in the state
its own effect leaves. -/
theorem workingTransfersComplete : Obligations.WorkingTransfersComplete := by
  unfold Obligations.WorkingTransfersComplete
  refine fun o s ea hq ht => ⟨fun h => ⟨?tov, ?tno, ?htr, fun w hw hv => ?tsl⟩,
    fun h => ⟨?tsx, ?txf, fun sum lim hsum hlim => ⟨?xlf, ?xlb⟩⟩⟩
  case tov => exact (execTov_of_ok hq h).trans (transferIf_of_no_ttrap ht)
  case tno =>
    refine ((execTno_of_ok hq h).trans (transferIf_of_no_ttrap ht)).trans ?_
    cases s.ov <;> rfl
  case htr => exact (execHtr_of_ok hq h).trans (transferTo_of_no_ttrap ht)
  case tsl =>
    exact ⟨_, (execTsl_of_allowed hq h hw hv).trans (transferTo_of_no_ttrap ht), rfl, stored_poke s ea _⟩
  all_goals
    have htx (v : Addr) : (s.setX o.t1.toNat v).ttrap = false := (s.setX_ttrap _ v).trans ht
  case tsx => exact (execTsx_of_ok hq h).trans (transferTo_of_no_ttrap (htx _))
  case txf =>
    refine ((execTxf_of_ok hq h).trans (transferIf_of_no_ttrap (htx _))).trans ?_
    simp only [ne_eq, decide_not, Bool.not_eq_true', decide_eq_false_iff_not, ite_not, State.setX_pc]
  case xlf =>
    refine ((execXlf_of_ok hq h hsum hlim).trans (transferIf_of_no_ttrap (htx _))).trans ?_
    simp only [decide_eq_true_eq, State.setX_pc]
  case xlb =>
    refine ((execXlb_of_ok hq h hsum hlim).trans (transferIf_of_no_ttrap (htx _))).trans ?_
    simp only [decide_eq_true_eq, State.setX_pc]

/-- Settles O31: with Transfer Trap Mode on a transfer made is the trap, taken in the state its own effect leaves. -/
theorem transferTrapMode : Obligations.TransferTrapMode := by
  unfold Obligations.TransferTrapMode
  refine fun o s ea hq ht => ⟨fun h => ⟨fun p hp => ?plain, ?tov, ?tno, ?htr, fun w hw hv => ?tsl⟩,
    fun h => ⟨?tsx, ?txf, fun sum lim hsum hlim => ⟨?xlf, ?xlb⟩⟩⟩
  case plain => rw [exec_plainTransfers o s p hp, transferOn_of_ok hq h, transferIf_of_ttrap hq ht]
  case tov =>
    refine ((execTov_of_ok hq h).trans (transferIf_of_ttrap hq ht)).trans ?_
    cases hov : s.ov with
    | true => rfl
    | false => rw [s.withOvOff_of_off hov]
  case tno =>
    refine ((execTno_of_ok hq h).trans (transferIf_of_ttrap hq ht)).trans ?_
    cases hov : s.ov with
    | true => rfl
    | false => rw [s.withOvOff_of_off hov]; rfl
  case htr => exact (execHtr_of_ok hq h).trans (transferTo_of_ttrap hq ht)
  case tsl => exact (execTsl_of_allowed hq h hw hv).trans (transferTo_of_ttrap hq ht)
  all_goals
    have hqx (v : Addr) : (s.setX o.t1.toNat v).inside = [] := (s.setX_inside _ v).trans hq
    have htx (v : Addr) : (s.setX o.t1.toNat v).ttrap = true := (s.setX_ttrap _ v).trans ht
  case tsx => exact (execTsx_of_ok hq h).trans (transferTo_of_ttrap (hqx _) (htx _))
  case txf =>
    refine ((execTxf_of_ok hq h).trans (transferIf_of_ttrap (hqx _) (htx _))).trans ?_
    by_cases hone : s.x o.t1.toNat = 1
    · rw [if_pos hone, hone, if_neg (by simp)]; rfl
    · rw [if_neg hone, if_pos (by simpa using hone)]
  case xlf =>
    refine ((execXlf_of_ok hq h hsum hlim).trans (transferIf_of_ttrap (hqx _) (htx _))).trans ?_
    simp only [decide_eq_true_eq]
  case xlb =>
    refine ((execXlb_of_ok hq h hsum hlim).trans (transferIf_of_ttrap (hqx _) (htx _))).trans ?_
    simp only [decide_eq_true_eq]

end Sys2Proof.Machine
end

section
/-! Sense lights and sense switches (R272, R273): the lights bit by bit, and PSE and MSE by the range their selector
falls in. -/

namespace Sys2Proof.Machine

variable {s : State} {o : Operand} {ea : Addr} {n : Nat}

theorem getLsbD_lightBit {k : Nat} (hk : k < 4) : (lightBit n).getLsbD k = (k == n - 1) := by
  rw [lightBit, BitVec.getLsbD_shiftLeft, Bool.eq_iff_iff]
  simp [BitVec.getLsbD_one, hk]
  omega

theorem ne_selector_of_unselected {i : Instr} {l : List Addr} (hl : i.selectors = some l)
    (h : i.selectedBy ea = false) : ∀ y ∈ l, ea ≠ y := by
  rw [Instr.selectedBy, hl] at h
  rintro y hy rfl
  simp [hy] at h

/-! ## Plus Sense -/

theorem plusSense_of_lightsOff (h : ea.toNat = 0o140) : plusSense ea s = .next { s with lights := 0 } := if_pos h

theorem plusSense_of_light (h1 : 1 ≤ n) (h4 : n ≤ 4) (h : ea.toNat = 0o140 + n) :
    plusSense ea s = .next { s with lights := s.lights ||| lightBit n } := by
  rw [plusSense, h]
  rw [if_neg (by omega), if_pos (by omega), Nat.add_sub_cancel_left]

theorem plusSense_of_switch (h1 : 1 ≤ n) (h6 : n ≤ 6) (h : ea.toNat = 0o160 + n) :
    plusSense ea s = .next (s.skipIf (switchDown s n)) := by
  rw [plusSense, h]
  rw [if_neg (by omega), if_neg (by omega), if_pos (by omega), Nat.add_sub_cancel_left]

theorem plusSense_of_unselected (h : (Instr.pse o).selectedBy ea = false) :
    plusSense ea s = .refused .unassignedSelector := by
  have hne := ne_selector_of_unselected rfl h
  simp only [List.forall_mem_cons] at hne
  rw [plusSense]
  rw [if_neg (by bv_omega), if_neg (by bv_omega), if_neg (by bv_omega)]

/-! ## Minus Sense -/

theorem minusSense_of_light_off (h1 : 1 ≤ n) (h4 : n ≤ 4) (h : ea.toNat = 0o140 + n)
    (hoff : s.lights.getLsbD (n - 1) = false) : minusSense ea s = .next s := by
  rw [minusSense, h]
  rw [if_pos (by omega), Nat.add_sub_cancel_left, lightOn, hoff, if_neg Bool.false_ne_true]

theorem minusSense_of_light_on (h1 : 1 ≤ n) (h4 : n ≤ 4) (h : ea.toNat = 0o140 + n)
    (hon : s.lights.getLsbD (n - 1) = true) :
    minusSense ea s = .next ({ s with lights := s.lights &&& ~~~ lightBit n }.skip 1) := by
  rw [minusSense, h]
  rw [if_pos (by omega), Nat.add_sub_cancel_left, lightOn, hon, if_pos rfl]

theorem minusSense_of_unselected (h : (Instr.mse o).selectedBy ea = false) :
    minusSense ea s = .refused .unassignedSelector := by
  have hne := ne_selector_of_unselected rfl h
  simp only [List.forall_mem_cons] at hne
  rw [minusSense]
  rw [if_neg (by bv_omega)]

/-- Settles O34: each selector falls in one range of PSE's or MSE's, and one outside all of them selects nothing. -/
theorem senseLightsAndSwitches : Obligations.SenseLightsAndSwitches := by
  unfold Obligations.SenseLightsAndSwitches
  intro o s ea hq h
  have hpse : exec (.pse o) s = plusSense ea s := withAddress_of_ok hq h
  have hmse : exec (.mse o) s = minusSense ea s := withAddress_of_ok hq h
  rw [hpse, hmse]
  refine ⟨plusSense_of_lightsOff,
    fun n h1 h4 hn => ⟨?lightOn, minusSense_of_light_off h1 h4 hn, fun hon => ?lightOff⟩,
    fun n h1 h6 hn => ?switch, plusSense_of_unselected, minusSense_of_unselected⟩
  case lightOn =>
    refine ⟨_, plusSense_of_light h1 h4 hn, rfl, fun k hk => ?_⟩
    rw [BitVec.getLsbD_or, getLsbD_lightBit hk]
  case lightOff =>
    refine ⟨_, minusSense_of_light_on h1 h4 hn hon, rfl, fun k hk => ?_⟩
    rw [State.skip_lights, BitVec.getLsbD_and, BitVec.getLsbD_not, getLsbD_lightBit hk, decide_eq_true hk,
      Bool.true_and]
  case switch => exact plusSense_of_switch h1 h6 hn

end Sys2Proof.Machine
end

section
/-! The restricted instructions that set registers (R282, R292, R447, R448): in Monitor Mode each reads its word and
works on it; what the nine channels are left with is read from the select word's positions. -/

namespace Sys2Proof.Machine

variable {s : State} {o : Operand} {ea : Addr} {w : Word}

/-- A restricted instruction in Monitor Mode reads the word at its effective address. -/
theorem restricted_of_monitor {k : Word → State → Result} (hq : s.inside = [])
    (h : effectiveAddress .double o s = .ok ea) (hw : s.load ea = some w) (hp : s.problem = false) :
    withAddress .double o s (fun ea s => privileged s (withWord s ea k)) = k w s := by
  rw [withAddress_of_ok hq h, privileged_of_monitor hp, withWord_of_load hq hw]

/-! ## The bounds of SMP -/

theorem toNat_extract_high_left (w : Word) :
    (w.extractLsb' 26 10 : BitVec 10).toNat = (leftHalf w).toNat / 2 ^ 8 := by
  have hw := w.isLt
  rw [leftHalf_toNat, BitVec.extractLsb'_toNat, Nat.shiftRight_eq_div_pow]
  omega

theorem toNat_extract_high_right (w : Word) :
    (w.extractLsb' 8 10 : BitVec 10).toNat = (rightHalf w).toNat / 2 ^ 8 := by
  rw [rightHalf_toNat, BitVec.extractLsb'_toNat, Nat.shiftRight_eq_div_pow]
  omega

/-! ## The channels a select word names -/

theorem special_mem_selected (w : Word) : ChannelId.special ∈ selected w ↔ position w 1 = true :=
  mem_selected w .special

theorem handSpecial_channel_of_position (w : Word) (s : State) (ch : ChannelId) :
    (handSpecial w s).channel ch =
      if ch = .special ∧ position w 1 = true then { s.channel ch with handed := true } else s.channel ch := by
  simp only [handSpecial_channel, special_mem_selected]

theorem handSpecial_ictMask (w : Word) (s : State) : (handSpecial w s).ictMask = s.ictMask := by rw [handSpecial_eq]

theorem enableChannels_channel (m : BitVec 6) (w : Word) (s : State) (ch : ChannelId) :
    (forChannels (enableChannel m) (selected w) s).channel ch =
      if position w (1 + (channelIndex ch).val) then { s.channel ch with enb := m } else s.channel ch := by
  rw [forChannels_channel (f := enableChannel m) (fun c => { c with enb := m }) (fun _ _ => rfl) _ _ (selected_nodup w)]
  simp only [mem_selected]

/-- ENB's channels: the mask for every selected one, and the special one handed over besides (R442, R448). -/
theorem handSpecial_enableChannels_channel (m : BitVec 6) (w : Word) (s : State) (ch : ChannelId) :
    (handSpecial w (forChannels (enableChannel m) (selected w) s)).channel ch =
      if position w (1 + (channelIndex ch).val) then
        { s.channel ch with enb := m, handed := (s.channel ch).handed || decide (ch = .special) }
      else s.channel ch := by
  rw [handSpecial_channel_of_position, enableChannels_channel]
  by_cases hch : ch = .special
  · subst hch
    have hpos : 1 + (channelIndex .special).val = 1 := rfl
    rw [hpos]
    cases position w 1 <;> simp
  · simp [hch]

/-- Settles O35: each instruction reads its word and sets from it what its rule names. -/
theorem monitorInstructions : Obligations.MonitorInstructions := by
  unfold Obligations.MonitorInstructions
  intro o s ea w hq h hw hp
  have hread {k} := restricted_of_monitor (k := k) hq h hw hp
  refine ⟨?smp, ?scar, ?ict, ?enb⟩
  case smp => exact ⟨_, hread, rfl, toNat_extract_high_left w, toNat_extract_high_right w⟩
  case scar => exact ⟨_, hread, rfl, maskBit_assignedChannels w⟩
  case ict =>
    refine ⟨_, hread, ?_, fun ch => ?_, fun ch => handSpecial_channel_of_position w _ ch⟩
    · rw [handSpecial_eq]
    · rw [handSpecial_ictMask]
      exact maskBit_selectMask w ch
  case enb =>
    refine ⟨_, hread, ?_, handSpecial_enableChannels_channel _ w s⟩
    rw [handSpecial_eq, forChannels_eq fun _ _ => rfl]

end Sys2Proof.Machine
end

section
/-! XEC (R254, R255): a chain of XECs is the orbit of its first object's address under one function. An object that is
no XEC stands at its end, is met before any address is met twice, and so lies within the bound of the search. -/

namespace Sys2Proof.Machine

variable {s u : State} {o p : Operand} {ea x : Addr} {w : Word} {i j : Instr} {n : ℕ}

/-! ## What is read and decoded with no turn inside -/

theorem Reads.of_quiet {a : Addr} (h : Reads s a w u) (hq : s.inside = []) : u = s ∧ s.load a = some w := by
  obtain ⟨hbefore, hload⟩ := h
  rw [BeforeAccess, hq] at hbefore
  subst hbefore
  exact ⟨rfl, hload⟩

theorem Addresses.of_quiet {d : Indexing} (h : Addresses d o s ea u) (hq : s.inside = []) :
    u = s ∧ effectiveAddress d o s = .ok ea := by
  induction h with
  | direct ho => exact ⟨rfl, effectiveAddress_of_direct ho⟩
  | indirect ho hr _ ih =>
    obtain ⟨rfl, hload⟩ := hr.of_quiet hq
    obtain ⟨hu, hea⟩ := ih hq
    exact ⟨hu, (effectiveAddress_of_word ho hload).trans hea⟩

theorem Decodes.of_quiet (h : Decodes s w i u) (hq : s.inside = []) :
    u = s ∧ ∀ k : Instr → State → Result, withDecoded w s k = k i s := by
  cases h with
  | plain hn hd => exact ⟨rfl, fun k => by rw [withDecoded, if_neg (by simp [hn]), hd, onDecoded]⟩
  | selector hn ha hd =>
    obtain ⟨hu, hea⟩ := ha.of_quiet hq
    exact ⟨hu, fun k => by rw [withDecoded, if_pos hn, withAddress_of_ok hq hea, hd, onDecoded]⟩

/-- An instruction word is put together from its operation and its operand part. -/
theorem word_of_operation {op : BitVec 9} (h : operationField w = op) : w = assemble op (operandField w) := by
  rw [← h, assemble_fields]

/-! ## Objects that are XEC and objects that are not -/

theorem decodeCpu_xec (p : Operand) (x : Addr) : decodeCpu (encode (.xec p)) x = .ok (.xec p) :=
  decodeCpu_encode rfl rfl

theorem needsSelector_xec (p : Operand) : needsSelector (encode (.xec p)) = false := by
  show (selectorTable (operationField (assemble 0o252 p))).isSome = false
  rw [operationField_assemble]
  rfl

theorem withDecoded_xec (k : Instr → State → Result) : withDecoded (encode (.xec p)) s k = k (.xec p) s := by
  rw [withDecoded, if_neg (by simp [needsSelector_xec]), decodeCpu_xec, onDecoded]

theorem Decodes.eq_of_xec (h : Decodes s (encode (.xec p)) i u) : i = .xec p := by
  cases h with
  | plain _ hd => exact Except.ok.inj (hd.symm.trans (decodeCpu_xec p 0))
  | selector hn _ _ => exact absurd hn (by simp [needsSelector_xec])

theorem word_of_decodeCpu_formed (h : decodeCpu (formedWord w x) x = .ok (.xec p)) :
    ∃ q, w = encode (.xec q) := by
  have henc : assemble 0o252 p = formedWord w x := (encode_of_decodeCpu h).1
  have hop : operationField w = 0o252 := by simpa [formedWord] using congrArg operationField henc.symm
  exact ⟨operandField w, word_of_operation hop⟩

/-- Only an XEC's own word decodes to an XEC. -/
theorem Decodes.word_of_xec (h : Decodes s w (.xec p) u) : ∃ q, w = encode (.xec q) := by
  cases h with
  | plain _ hd => exact ⟨p, (encode_of_decodeCpu hd).1.symm⟩
  | selector _ _ hd => exact word_of_decodeCpu_formed hd

theorem onDecoded_performWith {d : Except DecodeError Instr} {xec : Operand → State → Result}
    (h : ∀ p, d ≠ .ok (.xec p)) : onDecoded d (fun i => performWith xec i s) = onDecoded d fun i => exec i s := by
  cases d with
  | ok i => exact performWith_of_ne fun p hp => h p (congrArg _ hp)
  | error e => cases e <;> rfl

/-- A word that is no XEC's runs the same whatever meaning XEC is given. -/
theorem withDecoded_performWith (hw : ∀ p, w ≠ encode (.xec p)) (xec : Operand → State → Result) :
    withDecoded w s (performWith xec) = withDecoded w s exec := by
  have hplain (p : Operand) (hd : decodeCpu w 0 = .ok (.xec p)) : False := hw p (encode_of_decodeCpu hd).1.symm
  have hformed (x : Addr) (p : Operand) (hd : decodeCpu (formedWord w x) x = .ok (.xec p)) : False :=
    let ⟨q, hq⟩ := word_of_decodeCpu_formed hd
    hw q hq
  have hselector : (fun x u => onDecoded (decodeCpu (formedWord w x) x) fun i => performWith xec i u) =
      fun x u => onDecoded (decodeCpu (formedWord w x) x) fun i => exec i u :=
    funext₂ fun x _ => onDecoded_performWith (hformed x)
  rw [withDecoded, withDecoded, hselector, onDecoded_performWith hplain]

section
variable (hq : s.inside = []) (h : effectiveAddress .double o s = .ok ea)
include hq h

theorem runXec_of_xec (hw : s.load ea = some (encode (.xec p))) : runXec (n + 1) o s = runXec n p s := by
  rw [runXec, withOperand_of_ok hq h hw, withDecoded_xec]
  rfl

theorem runXec_of_other (hw : s.load ea = some w) (hx : ∀ p, w ≠ encode (.xec p)) :
    runXec (n + 1) o s = withDecoded w s exec := by
  rw [runXec, withOperand_of_ok hq h hw, withDecoded_performWith hx]

end

/-! ## The chain of objects -/

/-- The object at `a` is an XEC whose own object has an address: the chain goes on from `a`. -/
def XecAt (s : State) (a : Addr) : Prop :=
  ∃ p b, s.load a = some (encode (.xec p)) ∧ effectiveAddress .double p s = .ok b

/-- The address of the next object, if the chain goes on from `a`. -/
def nextObject (s : State) (a : Addr) : Addr :=
  ((effectiveAddress .double (operandField ((s.load a).getD 0)) s).toOption).getD 0

theorem nextObject_of_xec {a b : Addr} (hw : s.load a = some (encode (.xec p)))
    (hb : effectiveAddress .double p s = .ok b) : nextObject s a = b := by
  have hp : operandField (encode (.xec p)) = p := operandField_assemble _ p
  rw [nextObject, hw, Option.getD_some, hp, hb]
  rfl

/-- The chain from the object at `a` goes on for `n` XECs and ends with an object that is none, and an XEC of the
first of them then runs as `j`. -/
structure ChainEnds (s : State) (a : Addr) (n : ℕ) (j : Instr) : Prop where
  goesOn : ∀ k < n, XecAt s ((nextObject s)^[k] a)
  ends : ¬XecAt s ((nextObject s)^[n] a)
  runs : ∀ m, n < m → ∀ o, effectiveAddress .double o s = .ok a → runXec m o s = exec j s

theorem chainEnds_of_other (hq : s.inside = []) {a : Addr} (hw : s.load a = some w) (hx : ∀ p, w ≠ encode (.xec p))
    (hd : withDecoded w s exec = exec j s) : ChainEnds s a 0 j where
  goesOn k hk := absurd hk (Nat.not_lt_zero k)
  ends := fun ⟨p, _, hp, _⟩ => hx p (Option.some.inj (hw.symm.trans hp))
  runs m hm o ho := by
    obtain ⟨m, rfl⟩ := Nat.exists_eq_add_one.2 hm
    exact (runXec_of_other hq ho hw hx).trans hd

theorem ChainEnds.of_xec (hq : s.inside = []) {a b : Addr} (hw : s.load a = some (encode (.xec p)))
    (hb : effectiveAddress .double p s = .ok b) (h : ChainEnds s b n j) : ChainEnds s a (n + 1) j := by
  have hnext := nextObject_of_xec hw hb
  constructor
  case goesOn =>
    rw [Nat.forall_lt_succ_left]
    exact ⟨⟨p, b, hw, hb⟩, fun k hk => by rw [Function.iterate_succ_apply, hnext]; exact h.goesOn k hk⟩
  case ends => rw [Function.iterate_succ_apply, hnext]; exact h.ends
  case runs =>
    intro m hm o ho
    obtain ⟨m, rfl⟩ := Nat.exists_eq_add_one.2 (Nat.zero_lt_of_lt hm)
    exact (runXec_of_xec hq ho hw).trans (h.runs m (Nat.lt_of_succ_lt_succ hm) p hb)

/-- A chain that ends has ended within the bound: an address met twice would be met for ever (R255 d). -/
theorem ChainEnds.lt_chainFuel {a : Addr} (h : ChainEnds s a n j) : n < chainFuel := by
  obtain ⟨k, hk, he⟩ := exists_lt_card_iterate_eq (nextObject s) a n
  refine (Nat.not_lt.1 fun hkn => h.ends ?_).trans_lt (card_addr ▸ hk)
  rw [he]
  exact h.goesOn k hkn

theorem ChainEnds.exec_xec {a : Addr} (h : ChainEnds s a n j) (ho : effectiveAddress .double o s = .ok a) :
    exec (.xec o) s = exec j s :=
  h.runs s.chainLimit (h.lt_chainFuel.trans_le (Nat.le_add_right _ _)) o ho

/-- With no turn inside, an instruction comes to another in the state it started in; an XEC by a chain that ends. -/
theorem ComesTo.chainEnds (h : ComesTo s i u j) (hq : s.inside = []) :
    u = s ∧ ((∀ o, i ≠ .xec o) ∧ i = j ∨
      ∃ o ea n, i = .xec o ∧ effectiveAddress .double o s = .ok ea ∧ ChainEnds s ea n j) := by
  induction h with
  | here hx => exact ⟨rfl, .inl ⟨hx, rfl⟩⟩
  | @object s s1 s2 s3 u o ea w i j ha hr hd _ ih =>
    obtain ⟨rfl, hea⟩ := ha.of_quiet hq
    obtain ⟨rfl, hload⟩ := hr.of_quiet hq
    obtain ⟨rfl, hrun⟩ := hd.of_quiet hq
    obtain ⟨hu, ⟨hx, rfl⟩ | ⟨p, b, n, rfl, hb, hends⟩⟩ := ih hq
    · have hother : ∀ p, w ≠ encode (.xec p) := by
        rintro p rfl
        exact hx p hd.eq_of_xec
      exact ⟨hu, .inr ⟨o, ea, 0, rfl, hea, chainEnds_of_other hq hload hother (hrun exec)⟩⟩
    · obtain ⟨q, rfl⟩ := hd.word_of_xec
      obtain rfl : p = q := Instr.xec.inj hd.eq_of_xec
      exact ⟨hu, .inr ⟨o, ea, n + 1, rfl, hea, .of_xec hq hload hb hends⟩⟩

theorem ComesTo.exec_eq (h : ComesTo s i u j) (hq : s.inside = []) : u = s ∧ exec i s = exec j s := by
  obtain ⟨hu, ⟨_, rfl⟩ | ⟨o, ea, n, rfl, ho, hends⟩⟩ := h.chainEnds hq
  · exact ⟨hu, rfl⟩
  · exact ⟨hu, hends.exec_xec ho⟩

/-! ## Short chains and the endless one -/

/-- An XEC of a word that decodes to another instruction is a chain of no XEC. -/
theorem chainEnds_of_decodeCpu (hq : s.inside = []) (hw : s.load ea = some w) (hi : ∀ p, i ≠ .xec p)
    (hx : needsSelector w = true → effectiveAddress .double (operandField w) s = .ok x)
    (hd : decodeCpu w x = .ok i) : ChainEnds s ea 0 i := by
  refine chainEnds_of_other hq hw ?_ (withDecoded_of_ok hq hx hd)
  rintro p rfl
  exact hi p (Except.ok.inj (hd.symm.trans (decodeCpu_xec p x)))

/-- An XEC that is its own object meets itself again and never ends (R255 d). -/
theorem runXec_of_self (hq : s.inside = []) (h : effectiveAddress .double o s = .ok ea)
    (hw : s.load ea = some (encode (.xec o))) : runXec n o s = .fault .endlessExecuteChain := by
  induction n with
  | zero => rfl
  | succ n ih => exact (runXec_of_xec hq h hw).trans ih

/-- NOP's operation decodes without its effective address. -/
theorem decodeCpu_nop (hop : operationField w = 0o371) (x : Addr) : decodeCpu w x = .ok (.nop (operandField w)) :=
  calc decodeCpu w x
    _ = decodeCpu (encode (.nop (operandField w))) x := congrArg (decodeCpu · x) (word_of_operation hop)
    _ = .ok (.nop (operandField w)) := decodeCpu_encode rfl rfl

theorem execNop_of_ok (hq : s.inside = []) (h : effectiveAddress .double o s = .ok ea) : execNop o s = .next s := by
  rw [execNop, withAddress_of_ok hq h]

/-- Settles O41: a chain that ends runs as the instruction at its end, and the ends of the short chains are found by
decoding. -/
theorem executeRunsItsObject : Obligations.ExecuteRunsItsObject := by
  unfold Obligations.ExecuteRunsItsObject
  refine ⟨fun s u i j hq hc => hc.exec_eq hq, fun o s ea w hq h hw => ⟨?object, ?self, ?nop⟩⟩
  case object => exact fun i x hi hx hd => (chainEnds_of_decodeCpu hq hw hi hx hd).exec_xec h
  case self =>
    rintro rfl
    exact runXec_of_self hq h hw
  case nop =>
    intro x hop hx
    have hends : ChainEnds s ea 0 (.nop (operandField w)) :=
      chainEnds_of_decodeCpu hq hw (fun _ hp => by cases hp) (fun _ => hx) (decodeCpu_nop hop x)
    have hnop : exec (.nop (operandField w)) s = .next s := execNop_of_ok hq hx
    refine ⟨(hends.exec_xec h).trans hnop, fun o' b hb hload => ?_⟩
    exact ((hends.of_xec hq hload h).exec_xec hb).trans hnop

end Sys2Proof.Machine
end

section
/-! Skips, halts and modes (R251, R253, R256, R274-R284, R293, R398-R403, R407): what a test or a compare adds to the
program counter, and what a halted machine does with its turn. -/

namespace Sys2Proof.Machine

variable {s : State} {o : Operand} {ea : Addr} {w : Word}

/-! ## Tests -/

/-- LBT's bit is the parity of the accumulator (R275). -/
theorem position_logical_last (a : Acc) : position a.logical 35 = decide (a.m.toNat % 2 = 1) := by
  simp [position, Acc.logical, BitVec.getLsbD, Nat.testBit_zero]

section
variable (hq : s.inside = []) (h : effectiveAddress .double o s = .ok ea)
include hq h

theorem execPbt_of_ok : execPbt o s = .next (s.skipIf s.ac.p) := by rw [execPbt, withAddress_of_ok hq h]

theorem execLbt_of_ok : execLbt o s = .next (s.skipIf (decide (s.ac.m.toNat % 2 = 1))) := by
  rw [execLbt, withAddress_of_ok hq h, position_logical_last]

theorem testIndicators_of_ok (f : Word → Addr → Bool) : testIndicators f o s = .next (s.skipIf (f s.si ea)) := by
  rw [testIndicators, withAddress_of_ok hq h]

theorem withOperand_skipIf (hw : s.load ea = some w) (f : Word → State → Bool) :
    withOperand o s (fun w s => .next (s.skipIf (f w s))) = .next (s.skipIf (f w s)) := withOperand_of_ok hq h hw

end

/-! ## Compares -/

theorem compareUnsigned_eq (a b : Nat) :
    compareUnsigned a b = if b < a then .greater else if a = b then .equal else .less := by
  unfold compareUnsigned
  split_ifs <;> first | rfl | omega

/-- CAS's compare is that of the algebraic values, for which the two zeros are one (R279, D44). -/
theorem compareSigned_eq (c : Acc) (w : Word) {a b : Int} (ha : a = algebraic c.s c.m.toNat)
    (hb : b = algebraic (signOf w) (magnitude w).toNat) :
    compareSigned c w = if b < a then .greater else if a = b then .equal else .less := by
  subst ha hb
  unfold compareSigned algebraic
  generalize signOf w = sw, (magnitude w).toNat = n, c.s = sa, c.m.toNat = m
  obtain rfl | rfl := Bool.eq_or_eq_not sa sw
  case inl => cases sa <;> grind
  case inr => cases sw <;> grind

theorem State.skipOn_of_order (s : State) (p q : Prop) [Decidable p] [Decidable q] :
    s.skipOn (if p then .greater else if q then .equal else .less) =
      { s with pc := if p then s.pc else if q then s.pc + 1 else s.pc + 2 } := by
  split_ifs <;> rfl

/-- Settles O33: a test skips by its condition, a compare by where the accumulator stands in its order. -/
theorem skipsAndCompares : Obligations.SkipsAndCompares := by
  unfold Obligations.SkipsAndCompares
  refine ⟨fun o s ea hq h => ⟨?address, fun w hw => ?word⟩, fun o s ea w hq h hw => ⟨?cas, ?las, ?casi⟩⟩
  case address =>
    have htest := testIndicators_of_ok hq h
    simp only [List.forall_mem_cons]
    exact ⟨execPbt_of_ok hq h, execLbt_of_ok hq h, htest fun si ea => allOff si (rightMask ea),
      htest fun si ea => allOn si (rightMask ea), htest fun si ea => allOff si (leftMask ea),
      htest fun si ea => allOn si (leftMask ea), List.forall_mem_nil _⟩
  case word =>
    have htest := withOperand_skipIf hq h hw
    simp only [List.forall_mem_cons]
    exact ⟨htest _, htest _, htest _, htest _, List.forall_mem_nil _⟩
  case cas =>
    intro a b ha hb
    rw [← s.skipOn_of_order, ← compareSigned_eq s.ac w ha hb]
    exact withOperand_of_ok hq h hw
  case las =>
    rintro a b rfl rfl
    rw [← s.skipOn_of_order, ← compareUnsigned_eq]
    exact withOperand_of_ok hq h hw
  case casi =>
    rintro a b rfl rfl
    rw [← s.skipOn_of_order, ← compareUnsigned_eq]
    exact withOperand_of_ok hq h hw

/-! ## Halts and modes -/

theorem cpuCycle_of_halted {pick : Nat} (h : s.halted = true) : cpuCycle pick s = .next s := if_pos h

theorem step_of_event {e : Event} {rest : List Event} (h : s.script = e :: rest) : step s = runEvent e s.advance := by
  simp only [step, cycle, h]

theorem step_of_no_event (h : s.script = []) : step s = cpuCycle (Config.trapChoice s.tick) s.advance := by
  simp only [step, cycle, h]

/-- Settles O32: each instruction forms its address and does its one thing; a halted machine's turn ends at once. -/
theorem haltsModesAndMonitorCall : Obligations.HaltsModesAndMonitorCall := by
  unfold Obligations.HaltsModesAndMonitorCall
  refine ⟨fun o s ea hq h => ⟨execNop_of_ok hq h, ?hpr, ?etm, ?ltm, ?cmon⟩,
    fun s pick inside rest hhalted hscript => ?turn⟩
  case hpr => show execHpr o s = _; rw [execHpr, withAddress_of_ok hq h]
  case etm => show execEtm o s = _; rw [execEtm, withAddress_of_ok hq h]
  case ltm => show execLtm o s = _; rw [execLtm, withAddress_of_ok hq h]
  case cmon => show execCmon o s = _; rw [execCmon, withAddress_of_ok hq h, raise_of_quiet hq]
  case turn =>
    have hstill : s.advance.halted = true := hhalted
    obtain hnone | hcpu := hscript
    · rw [step_of_no_event hnone, cpuCycle_of_halted hstill]
    · rw [step_of_event hcpu, runEvent, cpuCycle_of_halted hstill]

end Sys2Proof.Machine
end

section
/-! Events from outside (R256, R40, R41, R467, R472): what each does to the state its event runs in; and of a channel in
the environment's hands, what each act leaves. -/

namespace Sys2Proof.Machine

variable {s : State} {c : Channel} {ch : ChannelId}

/-! ## Attention -/

@[simp] theorem Channel.note_attentionImmediate (c : Channel) :
    c.note .attentionImmediate =
      { c with pendingAttention := c.pendingAttention || c.enabled .attentionImmediate } :=
  c.note_of_kind .attentionImmediate

/-- An attention is pending at once by position 31, and by position 32 when the channel is idle; a busy one holds it
(R467). -/
theorem Channel.receiveAttention_eq (c : Channel) :
    c.receiveAttention =
      { c with
        pendingAttention :=
          c.pendingAttention || c.enabled .attentionImmediate || (!c.busy && c.enabled .attentionNotInUse)
        attentionWaiting := c.attentionWaiting || c.busy } := by
  unfold Channel.receiveAttention
  dsimp only
  rw [Channel.note_attentionNotInUse, Channel.note_attentionImmediate]
  cases c.busy with
  | true => rw [if_pos rfl, Bool.not_true, Bool.false_and, Bool.or_false, Bool.or_true]
  | false => rw [if_neg Bool.false_ne_true, Bool.not_false, Bool.true_and, Bool.or_false]; rfl

/-! ## A channel resumed -/

theorem Channel.resumed_idle (c : Channel) :
    c.resumed .idle =
      { c with
        phase := .idle, handed := false, attentionWaiting := false
        pendingAttention := c.pendingAttention || (c.attentionWaiting && c.enabled .attentionNotInUse) } := by
  rw [Channel.resumed, Channel.disconnect_eq]

theorem Channel.resumed_of_ne_idle {p : Phase} (h : p ≠ .idle) :
    c.resumed p = { c with phase := p, handed := false } := by
  cases p <;> first | rfl | exact absurd rfl h

/-! ## Whose the channel is -/

theorem Channel.inEnvironment_eq_true : c.inEnvironment = true ↔ c.phase = .environment ∨ c.handed = true := by
  rw [Channel.inEnvironment, Bool.or_eq_true, decide_eq_true_eq]

theorem environmentCycle_of_outside {act : EnvironmentAct} (hphase : (s.channel ch).phase ≠ .environment)
    (hhanded : (s.channel ch).handed = false) : environmentCycle ch act s = s := by
  refine if_neg fun h => ?_
  rcases Channel.inEnvironment_eq_true.1 h with h | h
  · exact hphase h
  · exact Bool.false_ne_true (hhanded.symm.trans h)

theorem environmentCycle_of_inEnvironment {act : EnvironmentAct}
    (h : (s.channel ch).phase = .environment ∨ (s.channel ch).handed = true) :
    environmentCycle ch act s = environmentAct ch act s := if_pos (Channel.inEnvironment_eq_true.2 h)

/-! ## Stores of the environment -/

theorem environmentAct_store_of_idle_or_violation {a : Addr} {w : Word}
    (h : (s.channel ch).busy = false ∨ s.channelViolates (s.channel ch).inhibit a = true) :
    environmentAct ch (.store a w) s = s := by
  rw [environmentAct, State.channelStore]
  rcases h with hidle | hviolates
  · rw [hidle, if_neg Bool.false_ne_true]
  · rw [if_pos hviolates, ite_self]

theorem environmentAct_store_of_allowed {a : Addr} {w : Word} (hbusy : (s.channel ch).busy = true)
    (hv : s.channelViolates (s.channel ch).inhibit a = false) :
    environmentAct ch (.store a w) s = s.poke a w := by
  rw [environmentAct, State.channelStore, if_pos hbusy, hv, if_neg Bool.false_ne_true]

/-- The environment's store is made or it is not (R83, R472). -/
theorem environmentAct_store (ch : ChannelId) (a : Addr) (w : Word) (s : State) :
    OnlyStorage s (environmentAct ch (.store a w) s) ∧
      ((s.channel ch).busy = false ∨ s.channelViolates (s.channel ch).inhibit a = true →
        SameStorage s (environmentAct ch (.store a w) s)) ∧
      ((s.channel ch).busy = true → s.channelViolates (s.channel ch).inhibit a = false →
        Stored s (environmentAct ch (.store a w) s) a [w]) := by
  refine ⟨?_, fun h => ?_, fun hbusy hv => ?_⟩
  · rw [environmentAct, State.channelStore]
    split_ifs <;> rfl
  · rw [environmentAct_store_of_idle_or_violation h]
    exact fun _ => rfl
  · rw [environmentAct_store_of_allowed hbusy hv]
    exact stored_poke s a w

/-! ## Steps that are turns -/

theorem step_of_environment {act : EnvironmentAct} {rest : List Event}
    (h : s.script = .turn (.environment ch act) :: rest) : step s = .next (environmentCycle ch act s.advance) :=
  step_of_event h

theorem step_of_attention {rest : List Event} (h : s.script = .turn (.attention ch) :: rest) :
    step s = .next (s.advance.setChannel ch (s.channel ch).receiveAttention) := step_of_event h

/-- Settles O60: the event at the head of the script is what the step does, and of the environment's turns each act is
what the turn does, when the channel is in its hands. -/
theorem outsideEvents : Obligations.OutsideEvents := by
  unfold Obligations.OutsideEvents
  refine fun s rest => ⟨step_of_event, fun w => step_of_event, fun b => step_of_event, ?_⟩
  rintro ch c rfl
  refine ⟨fun h => ?attention, fun act h => ⟨fun hphase hhanded => ?outside, fun henv => ?inside⟩⟩
  case attention => rw [step_of_attention h, Channel.receiveAttention_eq]
  case outside => exact (step_of_environment h).trans (congrArg _ (environmentCycle_of_outside hphase hhanded))
  case inside =>
    have hact : step s = .next (environmentAct ch act s.advance) :=
      (step_of_environment h).trans (congrArg _ (environmentCycle_of_inEnvironment henv))
    refine ⟨?store, ?ending, ?chain, ?unusual, ?idle, ?resume, ?carryOn⟩
    case store =>
      rintro a w rfl
      exact ⟨_, hact, environmentAct_store ch a w s.advance⟩
    case ending =>
      rintro rfl
      rw [hact, environmentAct, Channel.note_ending]
      rfl
    case chain =>
      rintro rfl
      rw [hact, environmentAct, Channel.note_chain]
      rfl
    case unusual =>
      rintro r rfl
      rw [hact, environmentAct, Channel.noteConditions_eq]
      rfl
    case idle =>
      rw [← Channel.resumed_idle]
      rintro (rfl | ⟨rfl, hbusy⟩)
      · exact hact
      · exact hact.trans (congrArg _ (if_pos hbusy))
    case resume =>
      rintro p rfl hp hbusy
      rw [← Channel.resumed_of_ne_idle hp]
      exact hact.trans (congrArg _ (if_pos hbusy))
    case carryOn =>
      rintro rfl
      exact hact

end Sys2Proof.Machine
end

section
/-! Index registers (spec/45_index.md): what is loaded into the register of Tag 1, what sums and differences leave in it
and in the compare indicators, and the compares, whose indicators a difference sets too. -/

namespace Sys2Proof.Machine

variable {s : State} {o : Operand} {ea d : Addr} {w : Word}

/-! ## Signed half words -/

theorem neg18_eq_zero_sub (v : Addr) : neg18 v = 0 - v := (zero_sub v).symm

theorem signedHalf_eq (w : Word) : signedHalf w = if signOf w then 0 - rightHalf w else rightHalf w := by
  rw [signedHalf, neg18_eq_zero_sub]

theorem add_signedHalf (x : Addr) (w : Word) :
    x + signedHalf w = if signOf w then x - rightHalf w else x + rightHalf w := by
  rw [signedHalf, neg18, add_ite, sub_eq_add_neg]

theorem sub_signedHalf (x : Addr) (w : Word) :
    x - signedHalf w = if signOf w then x + rightHalf w else x - rightHalf w := by
  rw [signedHalf, neg18, sub_ite, sub_neg_eq_add]

/-! ## Registers loaded -/

/-- The result `r`, reached from `s`, is a next state in which index register `n` holds `v`, or nothing is written when
`n` is zero, and nothing else has changed (R24). -/
def LoadsIndex (s : State) (r : Result) (n : Nat) (v : Addr) : Prop :=
  ∃ t, r = .next t ∧ t = { s with xr := t.xr } ∧ ∀ j, j ≤ 15 → t.x j = if j = n ∧ j ≠ 0 then v else s.x j

theorem loadsIndex_setX {n : Nat} (hn : n ≤ 15) (v : Addr) : LoadsIndex s (.next (s.setX n v)) n v :=
  ⟨s.setX n v, rfl, s.setX_eq n v, fun _ _ => s.x_setX hn v⟩

theorem tag_le (t : BitVec 4) : t.toNat ≤ 15 := Nat.le_of_lt_succ t.isLt

/-- A register loaded with the characteristic holds positions 1-8 of the accumulator as a number (R334). -/
theorem characteristic_eq (a : Acc) : characteristic a = BitVec.ofNat 18 (a.m.toNat / 2 ^ 27 % 2 ^ 8) := by
  apply BitVec.eq_of_toNat_eq
  rw [characteristic, BitVec.toNat_setWidth, BitVec.extractLsb'_toNat, Nat.shiftRight_eq_div_pow, BitVec.toNat_ofNat]

section
variable (hq : s.inside = []) (h : effectiveAddress .single o s = .ok ea)
include hq h

theorem indexFromWord_loads {f : Word → Addr} {v : Addr} (hw : s.load ea = some w) (hv : f w = v) :
    LoadsIndex s (indexFromWord f o s) o.t1.toNat v := by
  rw [indexFromWord, withIndexOperand_of_ok hq h hw, hv]
  exact loadsIndex_setX (tag_le o.t1) v

theorem indexFromAddress_loads {f : Addr → Addr} {v : Addr} (hv : f ea = v) :
    LoadsIndex s (indexFromAddress f o s) o.t1.toNat v := by
  rw [indexFromAddress, withAddress_of_ok hq h, hv]
  exact loadsIndex_setX (tag_le o.t1) v

theorem indexFromAcc_loads {u v : Addr} (hv : u = v) : LoadsIndex s (indexFromAcc u o s) o.t1.toNat v := by
  rw [indexFromAcc, withAddress_of_ok hq h, hv]
  exact loadsIndex_setX (tag_le o.t1) v

theorem accFromIndex_of_ok {v v' : Word} (hv : v = v') :
    accFromIndex (Acc.ofSigned v) o s =
      .next { s with ac := Acc.make (signOf v') false false (magnitude v') } := by
  rw [accFromIndex, withAddress_of_ok hq h, hv, Acc.ofSigned]

end

/-- Settles O42: each instruction loads the register of Tag 1, or the accumulator, with the value of its rule. -/
theorem indexLoads : Obligations.IndexLoads := by
  unfold Obligations.IndexLoads
  refine fun o s ea hq h => ⟨fun w hw => ?word, ?register, ?accumulator⟩
  case word =>
    have hload {f v} := indexFromWord_loads (f := f) (v := v) hq h hw
    simp only [List.forall_mem_cons]
    exact ⟨hload rfl, hload rfl, hload (neg18_eq_zero_sub _), hload (neg18_eq_zero_sub _), hload (signedHalf_eq w),
      hload (add_signedHalf _ w), hload (sub_signedHalf _ w), List.forall_mem_nil _⟩
  case register =>
    have haddress {f v} := indexFromAddress_loads (f := f) (v := v) hq h
    have hacc {u v} := indexFromAcc_loads (u := u) (v := v) hq h
    simp only [List.forall_mem_cons]
    exact ⟨haddress rfl, haddress (neg18_eq_zero_sub ea), hacc rfl, hacc (neg18_eq_zero_sub _),
      hacc (neg18_eq_zero_sub _), hacc (characteristic_eq s.ac), List.forall_mem_nil _⟩
  case accumulator =>
    have hacc {v v'} := accFromIndex_of_ok (v := v) (v' := v') hq h
    simp only [List.forall_mem_cons]
    exact ⟨hacc rfl, hacc rfl, hacc (congrArg (joinHalves 0) (neg18_eq_zero_sub _)),
      hacc (congrArg (joinHalves · 0) (neg18_eq_zero_sub _)), List.forall_mem_nil _⟩

/-! ## Compare indicators -/

section
variable (s) {x : Addr}

theorem State.compareIndex_of_lt (h : d.toNat < x.toNat) : s.compareIndex x d = s.indicateHigh := if_pos h

theorem State.compareIndex_self : s.compareIndex x x = s.indicateEqual :=
  (if_neg (Nat.lt_irrefl _)).trans (if_pos rfl)

theorem State.compareIndex_of_gt (h : x.toNat < d.toNat) : s.compareIndex x d = s.indicateLow :=
  (if_neg h.not_gt).trans (if_neg fun heq => h.ne (congrArg BitVec.toNat heq))

end

/-- A compare sets the one indicator that says how the two numbers stand (R342). -/
theorem State.compareIndex_eq (s : State) (x d : Addr) :
    s.compareIndex x d =
      s.setIndicators (decide (d.toNat < x.toNat)) (decide (x.toNat < d.toNat)) (decide (x = d)) := by
  rcases Nat.lt_trichotomy d.toNat x.toNat with hlt | heq | hgt
  · rw [s.compareIndex_of_lt hlt, State.indicateHigh]
    simp [BitVec.toNat_eq, hlt, hlt.not_gt, hlt.ne']
  · obtain rfl := BitVec.eq_of_toNat_eq heq
    rw [s.compareIndex_self, State.indicateEqual]
    simp
  · rw [s.compareIndex_of_gt hgt, State.indicateLow]
    simp [BitVec.toNat_eq, hgt, hgt.not_gt, hgt.ne]

/-- A difference sets the indicators as a compare of its two terms does (R324, R342). -/
theorem State.indicateSubtract_eq_compareIndex (s : State) (x d : Addr) :
    s.indicateSubtract x d = s.compareIndex x d := by
  simp only [State.indicateSubtract, State.compareIndex, sub_eq_zero, BitVec.lt_def, BitVec.toNat_eq]
  split_ifs <;> first | rfl | omega

/-- A sum is zero modulo 2^18 when it is zero or exactly 2^18, so Equal excludes High and, by its own condition, Low
(R324). -/
theorem State.indicateAdd_eq (s : State) (x d : Addr) :
    s.indicateAdd x d =
      s.setIndicators (decide (2 ^ 18 < x.toNat + d.toNat)) (decide (x + d ≠ 0 ∧ x.toNat + d.toNat < 2 ^ 18))
        (decide (x + d = 0)) := by
  have hzero : x + d = 0 ↔ x.toNat + d.toNat = 0 ∨ x.toNat + d.toNat = 2 ^ 18 := by bv_omega
  unfold State.indicateAdd
  split_ifs with hsum hhigh
  · have hnum := hzero.1 hsum
    rw [decide_eq_false (by omega), decide_eq_false (fun hlow => hlow.1 hsum), decide_eq_true hsum]; rfl
  · rw [decide_eq_true hhigh, decide_eq_false (by omega), decide_eq_false hsum]; rfl
  · have hnum := hzero.not.1 hsum
    rw [decide_eq_false hhigh, decide_eq_true ⟨hsum, by omega⟩, decide_eq_false hsum]; rfl

/-! ## Sums and differences -/

/-- An index register written together with the indicators, and the rest as it was. -/
theorem setIndicators_setX {t : State} {hi lo eq : Bool} {n : Nat} {v : Addr} (h0 : n ≠ 0) (h15 : n ≤ 15)
    (ht : t = (s.setIndicators hi lo eq).setX n v) :
    t = { s with xr := t.xr, ixh := t.ixh, ixl := t.ixl, ixe := t.ixe } ∧ t.x n = v ∧
      (∀ j, j ≠ n → t.x j = s.x j) ∧ t.ixh = hi ∧ t.ixl = lo ∧ t.ixe = eq := by
  subst ht
  refine ⟨?_, State.x_setX_same _ h0 h15 v, fun j hj => State.x_setX_of_ne _ hj v, ?_, ?_, ?_⟩
  · rw [State.setX, if_neg h0]; rfl
  all_goals simp only [State.setX_ixh, State.setX_ixl, State.setX_ixe, State.setIndicators]

section
variable (hq : s.inside = []) (h : effectiveAddress .single o s = .ok ea)
include hq h

theorem execAdxi_of_ok : execAdxi o s = .next (if o.t1 = 0 then s else s.addToIndex o.t1 ea) :=
  withAddress_of_ok hq h

theorem execSbxi_of_ok : execSbxi o s = .next (if o.t1 = 0 then s else s.subtractFromIndex o.t1 ea) :=
  withAddress_of_ok hq h

theorem execAdxd_of_ok :
    execAdxd o s =
      if o.t1 = 0 then .next s else withWord s ea fun w s => .next (s.addToIndex o.t1 (rightHalf w)) :=
  withAddress_of_ok hq h

theorem execSbxd_of_ok :
    execSbxd o s =
      if o.t1 = 0 then .next s else withWord s ea fun w s => .next (s.subtractFromIndex o.t1 (rightHalf w)) :=
  withAddress_of_ok hq h

theorem exec_indexArithmetic_of_tag_zero (ht : o.t1 = 0) :
    ∀ i ∈ [Instr.adxd o, .adxi o, .sbxd o, .sbxi o], exec i s = .next s := by
  simp only [List.forall_mem_cons]
  exact ⟨(execAdxd_of_ok hq h).trans (if_pos ht), (execAdxi_of_ok hq h).trans (congrArg _ (if_pos ht)),
    (execSbxd_of_ok hq h).trans (if_pos ht), (execSbxi_of_ok hq h).trans (congrArg _ (if_pos ht)),
    List.forall_mem_nil _⟩

/-- An add and its subtract take the same number: the effective address, or the right half of the word there. -/
theorem exec_indexArithmetic {add sub : Instr} (ht : o.t1 ≠ 0)
    (hi : (add = .adxi o ∧ sub = .sbxi o ∧ d = ea) ∨
      (add = .adxd o ∧ sub = .sbxd o ∧ (s.load ea).map rightHalf = some d)) :
    exec add s = .next (s.addToIndex o.t1 d) ∧ exec sub s = .next (s.subtractFromIndex o.t1 d) := by
  rcases hi with ⟨rfl, rfl, rfl⟩ | ⟨rfl, rfl, hd⟩
  case inl =>
    exact ⟨(execAdxi_of_ok hq h).trans (congrArg _ (if_neg ht)),
      (execSbxi_of_ok hq h).trans (congrArg _ (if_neg ht))⟩
  case inr =>
    obtain ⟨w, hw, rfl⟩ := Option.map_eq_some_iff.1 hd
    exact ⟨(execAdxd_of_ok hq h).trans ((if_neg ht).trans (withWord_of_load hq hw)),
      (execSbxd_of_ok hq h).trans ((if_neg ht).trans (withWord_of_load hq hw))⟩

/-! ## Compares -/

theorem execCxi_of_ok : execCxi o s = .next (s.compareIndex (tagged o s) ea) := withAddress_of_ok hq h

/-- Each compare is of the register of Tag 1 with the number of its rule (R335-R337). -/
theorem exec_indexCompare {p : Instr × Addr}
    (hp : p = (.cxi o, ea) ∨ ∃ w, s.load ea = some w ∧
      p ∈ [(Instr.cxs o, if signOf w then 0 - rightHalf w else rightHalf w), (.cxd o, rightHalf w)]) :
    exec p.1 s = .next (s.compareIndex (tagged o s) p.2) := by
  rcases hp with rfl | ⟨w, hw, hp⟩
  case inl => exact execCxi_of_ok hq h
  case inr =>
    rw [← signedHalf_eq] at hp
    revert p
    simp only [List.forall_mem_cons]
    exact ⟨withIndexOperand_of_ok hq h hw, withIndexOperand_of_ok hq h hw, List.forall_mem_nil _⟩

end

theorem tagged_eq (o : Operand) (s : State) : tagged o s = if o.t1 = 0 then 0 else s.x o.t1.toNat := by
  rw [tagged]
  split_ifs with ht
  · rw [ht]; rfl
  · rfl

/-- Settles O43: a sum or a difference is written with its indicators, and a compare sets its one indicator. -/
theorem indexArithmeticAndCompares : Obligations.IndexArithmeticAndCompares := by
  unfold Obligations.IndexArithmeticAndCompares
  refine fun o s ea hq h => ⟨exec_indexArithmetic_of_tag_zero hq h, ?arithmetic, ?compare⟩
  case arithmetic =>
    rintro ht x d rfl add sub hi
    have htag : o.t1.toNat ≠ 0 := fun hn => ht (BitVec.eq_of_toNat_eq hn)
    obtain ⟨hadd, hsub⟩ := exec_indexArithmetic hq h ht hi
    refine ⟨⟨_, hadd, ?add⟩, ⟨_, hsub, ?sub⟩⟩
    case add =>
      obtain ⟨hframe, hsum, hothers, hhigh, hlow, hequal⟩ := setIndicators_setX htag (tag_le o.t1)
        (congrArg (State.setX · o.t1.toNat (s.x o.t1.toNat + d)) (s.indicateAdd_eq (s.x o.t1.toNat) d))
      refine ⟨hframe, hsum, hothers, ?_, ?_, ?_⟩
      · exact hequal ▸ decide_eq_true_iff
      · exact hhigh ▸ decide_eq_true_iff
      · exact hlow ▸ decide_eq_true_iff
    case sub =>
      obtain ⟨hframe, hdifference, hothers, hhigh, hlow, hequal⟩ := setIndicators_setX htag (tag_le o.t1)
        (congrArg (State.setX · o.t1.toNat (s.x o.t1.toNat - d))
          ((s.indicateSubtract_eq_compareIndex (s.x o.t1.toNat) d).trans (s.compareIndex_eq _ d)))
      refine ⟨hframe, hdifference, hothers, ?_, ?_, ?_⟩
      · exact hequal ▸ decide_eq_true_iff
      · exact hlow ▸ decide_eq_true_iff
      · exact hhigh ▸ decide_eq_true_iff
  case compare =>
    rintro p x rfl hp
    rw [exec_indexCompare hq h hp, tagged_eq]
    refine ⟨fun hlt => ?greater, fun heq => ?equal, fun hgt => ?less⟩
    case greater => rw [s.compareIndex_of_lt hlt]; rfl
    case equal => rw [heq, s.compareIndex_self]; rfl
    case less => rw [s.compareIndex_of_gt hgt]; rfl

end Sys2Proof.Machine
end

section
/-! Logical operations on the accumulator (spec/46_logical.md) and the exchanges of registers (R162-R164, R384). -/

namespace Sys2Proof

/-! ## The accumulator complemented -/

theorem Acc.q_complement (a : Acc) : Acc.q { a with m := ~~~a.m } = !a.q := by simp [Acc.q]

theorem Acc.logical_complement (a : Acc) : Acc.logical { a with m := ~~~a.m } = ~~~a.logical :=
  BitVec.extractLsb'_not_of_lt (by decide)

end Sys2Proof

namespace Sys2Proof.Machine

variable {s : State} {o : Operand} {ea : Addr} {w : Word}

/-! ## The instructions -/

section
variable (hq : s.inside = []) (h : effectiveAddress .double o s = .ok ea)
include hq h

theorem execOra_of_ok (hw : s.load ea = some w) :
    execOra o s = .next { s with ac := s.ac.withLogical (s.ac.logical ||| w) } := withOperand_of_ok hq h hw

theorem execAna_of_ok (hw : s.load ea = some w) :
    execAna o s = .next { s with ac := Acc.ofLogical (s.ac.logical &&& w) } := withOperand_of_ok hq h hw

theorem execEra_of_ok (hw : s.load ea = some w) :
    execEra o s = .next { s with ac := Acc.ofLogical (s.ac.logical ^^^ w) } := withOperand_of_ok hq h hw

/-- Nothing but the accumulator changes, and it as `f` says (R367-R371). -/
theorem changeAcc_of_ok (f : Acc → Acc) : changeAcc f o s = .next { s with ac := f s.ac } :=
  withAddress_of_ok hq h

theorem execCom_of_ok : execCom o s = .next { s with ac := { s.ac with m := ~~~s.ac.m } } :=
  changeAcc_of_ok hq h _

theorem execClm_of_ok : execClm o s = .next { s with ac := { s.ac with m := 0 } } := changeAcc_of_ok hq h _

theorem execChs_of_ok : execChs o s = .next { s with ac := { s.ac with s := !s.ac.s } } := changeAcc_of_ok hq h _

theorem execSsp_of_ok : execSsp o s = .next { s with ac := { s.ac with s := false } } := changeAcc_of_ok hq h _

theorem execSsm_of_ok : execSsm o s = .next { s with ac := { s.ac with s := true } } := changeAcc_of_ok hq h _

theorem execXca_of_ok : execXca o s = .next { s with ac := Acc.ofSigned s.mq, mq := s.ac.signedWord } :=
  withAddress_of_ok hq h

theorem execXcl_of_ok : execXcl o s = .next { s with ac := Acc.ofLogical s.mq, mq := s.ac.logical } :=
  withAddress_of_ok hq h

theorem execEnk_of_ok : execEnk o s = .next { s with mq := s.keys } := withAddress_of_ok hq h

theorem execPia_of_ok : execPia o s = .next { s with ac := Acc.ofLogical s.si } := withAddress_of_ok hq h

end

/-- Settles O44: ORA, ANA and ERA put a word in P,1-35, with S and Q kept or cleared; COM, CLM, CHS, SSP and SSM
change the accumulator alone; the exchanges move whole words, signed or logical. -/
theorem accumulatorOperations : Obligations.AccumulatorOperations := by
  unfold Obligations.AccumulatorOperations
  intro o s ea hq h
  refine ⟨fun w hw => ⟨?ora, ?ana, ?era⟩, ?com, execClm_of_ok hq h, execChs_of_ok hq h, execSsp_of_ok hq h,
    execSsm_of_ok hq h, execXca_of_ok hq h, ?xcl, execEnk_of_ok hq h, ?pia⟩
  case ora =>
    exact ⟨_, execOra_of_ok hq h hw, Acc.withLogical_s _ _, Acc.withLogical_q _ _, Acc.withLogical_logical _ _⟩
  case ana => exact ⟨_, execAna_of_ok hq h hw, Acc.ofLogical_s _, Acc.ofLogical_q _, Acc.ofLogical_logical _⟩
  case era => exact ⟨_, execEra_of_ok hq h hw, Acc.ofLogical_s _, Acc.ofLogical_q _, Acc.ofLogical_logical _⟩
  case com => exact ⟨_, execCom_of_ok hq h, rfl, Acc.q_complement _, Acc.logical_complement _⟩
  case xcl =>
    rw [← Acc.ofLogical_eq, ← Acc.logical_eq]
    exact execXcl_of_ok hq h
  case pia =>
    rw [← Acc.ofLogical_eq]
    exact execPia_of_ok hq h

end Sys2Proof.Machine
end

section
/-! Changes of the sense indicators by a mask (R380, R383, R385, R386, R388-R397): what replacing, or-ing, resetting and
inverting do at each position of a word, and where the mask comes from: the accumulator, the effective address or the
word there. -/

namespace Sys2Proof.Machine

variable {s : State} {o : Operand} {ea : Addr} {w : Word} {c : Word → Word → Word} {f : Bool → Bool → Bool}

/-! ## Words combined position by position -/

/-- The operation `c` on words does at each position what `f` does to the positions of its operands (R380). -/
def Positionwise (c : Word → Word → Word) (f : Bool → Bool → Bool) : Prop :=
  ∀ b m k, k < 36 → position (c b m) k = f (position b k) (position m k)

theorem positionwise_mask : Positionwise (fun _ m => m) fun _ m => m := fun _ _ _ _ => rfl

theorem positionwise_or : Positionwise (fun b m => b ||| m) fun b m => b || m := fun _ _ _ _ => BitVec.getLsbD_or

theorem positionwise_xor : Positionwise (fun b m => b ^^^ m) fun b m => b != m := fun _ _ _ _ => BitVec.getLsbD_xor

theorem positionwise_andNot : Positionwise (fun b m => b &&& ~~~m) fun b m => b && !m := by
  intro b m k _
  have hk : 35 - k < 36 := by omega
  rw [position, BitVec.getLsbD_and, BitVec.getLsbD_not, decide_eq_true hk, Bool.true_and]
  rfl

/-! ## The instructions -/

/-- The result `r`, reached from `s`, is a next state in which SI holds at each position what `f` makes of SI and of the
mask `m`, and nothing else has changed (R380). -/
def ChangesIndicators (s : State) (r : Result) (m : Word) (f : Bool → Bool → Bool) : Prop :=
  ∃ t, r = .next t ∧ t = { s with si := t.si } ∧
    ∀ k, k < 36 → position t.si k = f (position s.si k) (position m k)

theorem Positionwise.changesIndicators (hc : Positionwise c f) (m : Word) :
    ChangesIndicators s (.next { s with si := c s.si m }) m f := ⟨_, rfl, rfl, hc s.si m⟩

section
variable (hq : s.inside = []) (h : effectiveAddress .double o s = .ok ea)
include hq h

theorem changeIndicators_changes (hc : Positionwise c f) (m : Word) :
    ChangesIndicators s (changeIndicators (c s.si m) o s) m f := by
  rw [changeIndicators, withAddress_of_ok hq h]
  exact hc.changesIndicators m

theorem maskIndicators_changes (hc : Positionwise c f) (mask : Addr → Word) :
    ChangesIndicators s (maskIndicators (fun si ea => c si (mask ea)) o s) (mask ea) f := by
  rw [maskIndicators, withAddress_of_ok hq h]
  exact hc.changesIndicators (mask ea)

/-- The shape of OSI, RIS and IIS, whose mask is the storage operand (R386, R393, R395). -/
theorem withOperand_changesIndicators (hw : s.load ea = some w) (hc : Positionwise c f) :
    ChangesIndicators s (withOperand o s fun w s => .next { s with si := c s.si w }) w f := by
  rw [withOperand_of_ok hq h hw]
  exact hc.changesIndicators w

end

/-- Settles O45: the mask is the accumulator, the effective address over a half or the storage operand, and each
instruction combines SI with its mask by one of four operations on the single positions. -/
theorem senseIndicatorChanges : Obligations.SenseIndicatorChanges := by
  unfold Obligations.SenseIndicatorChanges
  refine fun o s ea hq h => ⟨?register, fun w hw => ?storage⟩
  case register =>
    have hacc {c f} (hc : Positionwise c f) := changeIndicators_changes hq h hc s.ac.logical
    have hleft {c f} (hc : Positionwise c f) := maskIndicators_changes hq h hc leftMask
    have hright {c f} (hc : Positionwise c f) := maskIndicators_changes hq h hc rightMask
    simp only [List.forall_mem_cons]
    exact ⟨hacc positionwise_mask, hacc positionwise_or, hacc positionwise_andNot, hacc positionwise_xor,
      hleft positionwise_andNot, hright positionwise_andNot, hleft positionwise_or, hright positionwise_or,
      hleft positionwise_xor, hright positionwise_xor, List.forall_mem_nil _⟩
  case storage =>
    have hword {c f} (hc : Positionwise c f) := withOperand_changesIndicators hq h hw hc
    simp only [List.forall_mem_cons]
    exact ⟨hword positionwise_or, hword positionwise_andNot, hword positionwise_xor, List.forall_mem_nil _⟩

end Sys2Proof.Machine
end

section
/-! Reset, the processor's turn and what it refuses (R500, R121, R116, R540, R560): a turn with nothing in its way is the
decoded instruction, run in the state its fetch has left, and a channel's turn is the word it has met. -/

namespace Sys2Proof.Machine

variable {s : State} {o : Operand} {ea : Addr} {w : Word} {i : Instr}

/-! ## Deliverable traps -/

theorem State.deliverable_iff (s : State) (ch : ChannelId) (k : TrapKind) :
    s.deliverable ch k = true ↔
      ch ≠ .special ∧ (s.channel ch).pending k = true ∧ s.cti = false ∧ maskBit s.ictMask ch = false := by
  simp only [State.deliverable, Bool.and_eq_true, decide_eq_true_eq, Bool.not_eq_true', and_assoc]

theorem State.mem_deliverables (s : State) (ch : ChannelId) (k : TrapKind) :
    (ch, k) ∈ s.deliverables ↔ s.deliverable ch k = true := by
  have hall : (ch, k) ∈ allChannels.flatMap fun ch => [(ch, TrapKind.ending), (ch, .unusualEnd), (ch, .attention)] := by
    cases ch <;> cases k <;> decide
  rw [State.deliverables, List.mem_filter, and_iff_right hall]

theorem State.deliverables_eq_nil (h : ∀ ch k, s.deliverable ch k = false) : s.deliverables = [] :=
  List.eq_nil_iff_forall_not_mem.2 fun p hp =>
    Bool.false_ne_true ((h p.1 p.2).symm.trans ((s.mem_deliverables p.1 p.2).1 hp))

/-! ## Reset -/

theorem State.reset_channel (ch : ChannelId) : State.reset.channel ch = Channel.reset := by
  simp [State.channel, State.reset]

/-- Settles O9: every channel is the idle one, and a channel with nothing pending has nothing deliverable. -/
theorem resetState : Obligations.ResetState := by
  unfold Obligations.ResetState
  have hpending (ch : ChannelId) (k : TrapKind) : (State.reset.channel ch).pending k = false := by
    rw [State.reset_channel]; cases k <;> rfl
  refine ⟨rfl, rfl, rfl, rfl, rfl, rfl, State.wf_reset, ?_, fun a => rfl, fun ch => ⟨?_, ?_, hpending ch, ?_⟩⟩
  · exact State.deliverables_eq_nil fun ch k => by simp [State.deliverable, hpending ch k]
  · rw [State.reset_channel]; rfl
  · rw [State.reset_channel]; rfl
  · cases ch <;> decide

/-! ## The word fetched -/

/-- A word of a 370 group that decodes to an instruction is a row's, and with its address formed first it decodes to
that row's instruction with the formed operand (R111, R121). -/
theorem decodeCpu_of_needsSelector (hn : needsSelector w = true) (hd : decodeCpu w ea = .ok i) :
    ∃ r ∈ plusSelectors ++ minusSelectors,
      i = r.2 (operandField w) ∧ decodeCpu (formedWord w ea) ea = .ok (r.2 (formedOperand ea)) := by
  obtain ⟨table, ht⟩ := Option.isSome_iff_exists.1 hn
  cases hl : table.lookup ea with
  | none => simp [decodeCpu, ht, hl] at hd
  | some build =>
    refine ⟨(ea, build), ?_, ?_, decodeCpu_of_selector ht hl⟩
    · have hm := mem_of_lookup hl
      unfold selectorTable at ht
      split_ifs at ht <;> cases ht
      · exact List.mem_append_left _ hm
      · exact List.mem_append_right _ hm
    · simpa [decodeCpu, ht, hl] using hd.symm

/-- A member of a 370 group uses its operand for the address it forms and for nothing else. -/
theorem exec_of_address (ha : ∀ k : Addr → State → Result, withAddress .double o s k = k ea s) :
    ∀ r ∈ plusSelectors ++ minusSelectors, exec (r.2 o) s = exec (r.2 (formedOperand ea)) s := by
  have hformed {k : Addr → State → Result} :
      withAddress .double o s k = withAddress .double (formedOperand ea) s k := by
    have hdirect : directAddress .double (formedOperand ea) s = ea := by simp [directAddress, formedOperand]
    rw [ha k, withAddress_of_direct rfl, hdirect]
  simp only [plusSelectors, minusSelectors, List.cons_append, List.nil_append, List.forall_mem_cons,
    List.not_mem_nil, IsEmpty.forall_iff, implies_true, and_true]
  and_intros <;>
  · dsimp only [exec, execClm, execLbt, execChs, execSsp, execEnk, execCom, execEtm, execRnd, execFrn, execPse,
      execPbt, execSsm, execLtm, execMse, changeAcc]
    exact hformed

/-- Decoding runs the instruction, when forming the address of a 370 group's word lets no turn in. -/
theorem withDecoded_of_address
    (ha : needsSelector w = true → ∀ k : Addr → State → Result, withAddress .double (operandField w) s k = k ea s)
    (hd : decodeCpu w ea = .ok i) : withDecoded w s exec = exec i s := by
  cases hn : needsSelector w with
  | false => exact withDecoded_of_plain hn hd
  | true =>
    obtain ⟨r, hr, rfl, hformed⟩ := decodeCpu_of_needsSelector hn hd
    rw [withDecoded, if_pos hn, ha hn, hformed, exec_of_address (ha hn) r hr]
    rfl

/-- A word assigned to nothing is refused with the reason of its decoding (R116). -/
theorem withDecoded_of_error {e : DecodeError} {k : Instr → State → Result} (hq : s.inside = [])
    (ha : needsSelector w = true → effectiveAddress .double (operandField w) s = .ok ea)
    (hd : decodeCpu w ea = .error e) : withDecoded w s k = onDecoded (.error e) fun i => k i s := by
  cases hn : needsSelector w with
  | true =>
    obtain ⟨table, ht⟩ := Option.isSome_iff_exists.1 hn
    have hformed : decodeCpu (formedWord w ea) ea = .error e := by
      cases hl : table.lookup ea with
      | none => simpa [decodeCpu, formedWord, ht, hl] using hd
      | some build => simp [decodeCpu, ht, hl] at hd
    rw [withDecoded, if_pos hn, withAddress_of_ok hq (ha hn), hformed]
  | false =>
    have hsame : decodeCpu w 0 = decodeCpu w ea := by
      rw [needsSelector, Option.isSome_eq_false_iff, Option.isNone_iff_eq_none] at hn
      simp only [decodeCpu, hn]
    rw [withDecoded, if_neg (by simp [hn]), hsame, hd]

/-! ## The processor's turn -/

theorem chooseTrap_of_none (h : s.deliverables = []) (pick : Nat) : s.chooseTrap pick = none := by
  rw [State.chooseTrap, h]; rfl

/-- A turn with nothing in its way fetches the word at PC and decodes it (R500). -/
theorem cpuCycle_of_load (hhalted : s.halted = false) (hcompat : s.compat = false) (hnone : s.deliverables = [])
    (hw : s.load s.pc = some w) (pick : Nat) :
    cpuCycle pick s = withDecoded w { s with il := s.pc, pc := s.pc + 1 } exec := by
  rw [cpuCycle, if_neg (by simp [hhalted]), chooseTrap_of_none hnone]
  dsimp only
  rw [if_neg (by simp [hcompat]), runInstruction, withFetched, readWord_of_load hw]

/-- The processor's turn is next when the script is exhausted or says so. -/
theorem step_of_cpu {pick : Nat} {inside : List (List Turn)} {rest : List Event}
    (h : s.script = [] ∨ s.script = .cpu pick inside :: rest) : ∃ n, step s = cpuCycle n s.advance := by
  rcases h with h | h
  · exact ⟨_, step_of_no_event h⟩
  · exact ⟨pick, step_of_event h⟩

/-! ## The channel's turn -/

theorem step_of_channel {ch : ChannelId} {r : DeviceReply} {rest : List Event}
    (h : s.script = .turn (.channel ch r) :: rest) : step s = channelStep r { s.advance with acting := ch } :=
  step_of_event h

/-- What a channel does with a word is what `exec` does with it. -/
theorem performChannel_eq_exec (h : i.isCpu = false) : performChannel i s = exec i s := by
  cases i <;> first | rfl | cases h

theorem channelStep_of_decode {r : DeviceReply} {cur : Option Command}
    (hp : (s.channel s.acting).phase = .decode cur w) (hd : decodeChannel w = some i) :
    channelStep r s = exec i s := by
  rw [channelStep, hp]
  simp only [channelDecode, hd, performChannel_eq_exec (encode_of_decodeChannel hd).2]

/-- Settles O5: the processor's turn is its fetch, the decoding and `exec`; a channel's turn is the meaning of the word
it has met. -/
theorem stepRunsDecoded : Obligations.StepRunsDecoded := by
  unfold Obligations.StepRunsDecoded
  refine ⟨?cpu, ?channel⟩
  case cpu =>
    rintro s _ pick inside rest w ea i hscript hhalted hcompat hnone hw rfl ha hd
    obtain ⟨n, hstep⟩ := step_of_cpu hscript
    rw [hstep, cpuCycle_of_load (s := s.advance) hhalted hcompat hnone hw]
    refine withDecoded_of_address (fun hn k => ?_) hd
    obtain ⟨hea, hquiet | hdirect⟩ := ha hn
    · exact withAddress_of_ok hquiet hea
    · rw [effectiveAddress_of_direct hdirect] at hea
      rw [withAddress_of_direct hdirect]
      exact congrArg (k · _) (Except.ok.inj hea)
  case channel =>
    intro s ch r rest cur w i hscript hphase hd
    rw [step_of_channel hscript]
    exact channelStep_of_decode hphase hd

/-! ## Refusals -/

theorem toBeDefined_of_ok (hq : s.inside = []) (h : effectiveAddress .double o s = .ok ea) :
    toBeDefined o s = .refused .toBeDefined := withAddress_of_ok hq h

/-- What IMP, IDV and FRD refuse of the accumulator (R188, R192, R216). -/
theorem fitsWord_of_above {a : Acc} (h : a.q = true ∨ a.p = true) : fitsWord a = false := by
  rcases h with h | h <;> simp [fitsWord, h]

theorem exec_of_above (hq : s.inside = []) (h : effectiveAddress .double o s = .ok ea)
    (habove : s.ac.q = true ∨ s.ac.p = true) :
    ∀ i ∈ [Instr.imp o, .idv o, .frd o], exec i s = .refused .operandAboveWord := by
  have hrefused {r : Result} : (if fitsWord s.ac then r else .refused .operandAboveWord) = .refused .operandAboveWord := by
    rw [fitsWord_of_above habove, if_neg Bool.false_ne_true]
  have haddress {k} := withAddress_of_ok (k := k) hq h
  simp only [List.forall_mem_cons]
  refine ⟨?imp, ?idv, ?frd, List.forall_mem_nil _⟩
  case imp => show execImp o s = _; exact haddress.trans hrefused
  case idv => show execIdv o s = _; exact haddress.trans hrefused
  case frd => show execFrd o s = _; exact haddress.trans hrefused

/-- Settles O48: the instructions form their address and are refused; a word with no meaning is refused where it is
decoded. -/
theorem refusedInstructions : Obligations.RefusedInstructions := by
  unfold Obligations.RefusedInstructions
  refine ⟨fun o s ea hq h => ⟨?undefined, ?undescribed, exec_of_above hq h⟩, ?unassigned⟩
  case undefined =>
    have hrefused := toBeDefined_of_ok hq h
    simp only [List.forall_mem_cons]
    exact ⟨hrefused, hrefused, hrefused, hrefused, hrefused, hrefused, List.forall_mem_nil _⟩
  case undescribed => show execSbp o s = _; rw [execSbp, withAddress_of_ok hq h]
  case unassigned =>
    intro s w ea hscript hhalted hcompat hnone hw ha
    have hquiet : s.advance.inside = [] := by rw [State.advance, hscript]; rfl
    have hstep {e : DecodeError} (hd : decodeCpu w ea = .error e) :
        ∃ u, step s = onDecoded (.error e) fun i => exec i u := by
      rw [step_of_no_event hscript, cpuCycle_of_load (s := s.advance) hhalted hcompat hnone hw]
      exact ⟨_, withDecoded_of_error hquiet ha hd⟩
    exact ⟨fun hd => (hstep hd).choose_spec, fun hd => (hstep hd).choose_spec⟩

end Sys2Proof.Machine
end

section
/-! Traps and returns from them (R290, R291, R500-R522): what an entry stores and clears, with and without turns between
its stores, the restricted instructions, and what PTR and CTR bring back. -/

namespace Sys2Proof.Machine

variable {s t u : State} {o : Operand} {ea : Addr} {w : Word}

/-! ## A list of stores -/

/-- Of stores at distinct addresses each word stands where it was stored. -/
theorem State.pokes_load_of_mem {l : List (Addr × Word)} {a : Addr} (hn : (l.map Prod.fst).Nodup) (h : (a, w) ∈ l) :
    (s.pokes l).load a = some w := by
  induction l generalizing s with
  | nil => cases h
  | cons e l ih =>
    rw [List.map_cons, List.nodup_cons] at hn
    obtain ⟨hhead, hrest⟩ := hn
    rcases List.mem_cons.1 h with rfl | hm
    · rw [State.pokes_cons, State.pokes_load_of_other _ hhead, State.load_poke_same]
    · exact ih hrest hm

/-! ## The entry of a CPU trap -/

/-- A CPU trap stores at distinct locations: SAVE is R4 or R5, the further information at R1, R2 or R3 (R502). -/
theorem CpuTrap.stores_nodup (c : CpuTrap) (s : State) : ((c.stores s).map Prod.fst).Nodup := by
  cases c <;> simp [CpuTrap.stores, CpuTrap.save, CpuTrap.information]

theorem takeTrap_load_of_mem {c : CpuTrap} {a : Addr} (h : (a, w) ∈ c.stores s) : (takeTrap c s).load a = some w :=
  State.pokes_load_of_mem (c.stores_nodup s) h

theorem takeTrap_load_save (c : CpuTrap) (s : State) :
    (takeTrap c s).load (locationAddress c.save) = some (joinHalves s.modeStatus (c.returnAddress s.il)) :=
  takeTrap_load_of_mem List.mem_cons_self

theorem takeTrap_load_information {c : CpuTrap} {p : FixedLocation × Word} (h : p ∈ c.information) :
    (takeTrap c s).load (locationAddress p.1) = some p.2 :=
  takeTrap_load_of_mem (List.mem_cons_of_mem _ (List.mem_map_of_mem h))

theorem takeTrap_load_of_elsewhere {c : CpuTrap} {a : Addr} (hsave : a ≠ locationAddress c.save)
    (hinfo : ∀ p ∈ c.information, a ≠ locationAddress p.1) : (takeTrap c s).load a = s.load a := by
  refine State.pokes_load_of_other (c.stores s) fun hm => ?_
  simp only [CpuTrap.stores, List.map_cons, List.map_map, List.mem_cons, List.mem_map] at hm
  rcases hm with hm | ⟨p, hp, hm⟩
  · exact hsave hm
  · exact hinfo p hp hm.symm

/-- Every trap but the Transfer Trap and that of Compatible Mode returns behind its instruction (R512, D10). -/
theorem CpuTrap.returnAddress_of_completed {c : CpuTrap} (htransfer : c ≠ .transfer)
    (hcompat : ∀ op x, c ≠ .ioInCompatibleMode op x) (l : Addr) : c.returnAddress l = l + 1 := by
  cases c with
  | transfer => exact absurd rfl htransfer
  | ioInCompatibleMode op x => exact absurd rfl (hcompat op x)
  | floatingPoint i sp | divideCheck | protectViolation | illegalOperation | monitorCall x => rfl

/-- Settles O39: the stores of an entry stand at distinct locations and nothing else is stored; the table is read off its
columns. -/
theorem trapEntry : Obligations.TrapEntry := by
  unfold Obligations.TrapEntry
  refine ⟨fun c s => raise_of_quiet, ?entry, fun _ _ => ⟨rfl, rfl, rfl⟩, ⟨rfl, rfl, rfl⟩, ?program,
    fun _ _ => ⟨rfl, rfl, rfl⟩, ⟨rfl, rfl, rfl⟩, fun _ => ⟨rfl, rfl, rfl⟩, fun _ => rfl,
    fun c l htransfer hcompat => CpuTrap.returnAddress_of_completed htransfer hcompat l⟩
  case entry =>
    rintro c s _ rfl
    exact ⟨takeTrap_eq c s, rfl, takeTrap_load_save c s, fun p => takeTrap_load_information,
      fun a => takeTrap_load_of_elsewhere⟩
  case program =>
    simp only [List.forall_mem_cons]
    exact ⟨⟨rfl, rfl, rfl⟩, ⟨rfl, rfl, rfl⟩, List.forall_mem_nil _⟩

/-! ## Entries with turns between the stores -/

/-- Settles O40: the turns between an entry's stores reach no register of the processor, and its end clears the modes and
sets PC whatever they did. -/
theorem trapsEnterMonitor : Obligations.TrapsEnterMonitor := by
  unfold Obligations.TrapsEnterMonitor
  refine ⟨fun c s => ensures_raise ?cpu, fun ch k s => ensures_withPokes _ fun u hu => ensures_next.2 ?channel⟩
  case cpu =>
    rintro _ ⟨u, hu, rfl⟩
    refine ⟨rfl, rfl, ?_⟩
    rw [hu.same]
    rfl
  case channel =>
    refine ⟨rfl, rfl, ?_⟩
    rw [hu.same]
    rfl

/-! ## Restricted instructions (R506, R507) -/

section
variable (hq : s.inside = []) (h : effectiveAddress .double o s = .ok ea) (hp : s.problem = true)
include hq h hp

theorem restricted_of_problem (k : Addr → State → Result) :
    withAddress .double o s (fun ea s => privileged s (k ea s)) = .next (takeTrap .illegalOperation s) := by
  rw [withAddress_of_ok hq h, privileged_of_problem hq hp]

/-- STC, CHT and SCH trap on the one channel they select when it is not assigned. -/
theorem withOneChannel_of_unassigned {ch : ChannelId} {k : Word → State → ChannelId → Result} (hw : s.load ea = some w)
    (hone : selected w = [ch]) (hcar : maskBit s.car ch = false) :
    withOperand o s (fun w s => withOneChannel w s (k w s)) = .next (takeTrap .illegalOperation s) := by
  rw [withOperand_of_ok hq h hw, withOneChannel, hone]
  simp [hp, hcar, raise_of_quiet hq]

theorem execHch_of_unassigned {ch : ChannelId} (hw : s.load ea = some w)
    (hch : position w (1 + (channelIndex ch).val) = true) (hcar : maskBit s.car ch = false) :
    execHch o s = .next (takeTrap .illegalOperation s) := by
  have hany : (s.problem && (selected w).any fun ch => !maskBit s.car ch) = true := by
    rw [hp, Bool.true_and, List.any_eq_true]
    exact ⟨ch, (mem_selected w ch).2 hch, by simp [hcar]⟩
  rw [execHch, withSelectWord, withOperand_of_ok hq h hw, if_pos hany, raise_of_quiet hq]

end

/-- Settles O36: in each the check stands before anything is done. -/
theorem restrictedInstructionsTrap : Obligations.RestrictedInstructionsTrap := by
  unfold Obligations.RestrictedInstructionsTrap
  intro o s ea hq h hp
  refine ⟨?always, fun w hw => ⟨fun ch hone hcar => ?one, fun ch hch hcar => execHch_of_unassigned hq h hp hw hch hcar⟩⟩
  case always =>
    have htrap := restricted_of_problem hq h hp
    simp only [List.forall_mem_cons, exec, execSmp, execPtr, execCtr, execScar, execIct, execEnb]
    exact ⟨htrap _, htrap _, htrap _, htrap _, htrap _, htrap _, List.forall_mem_nil _⟩
  case one =>
    have htrap {k} := withOneChannel_of_unassigned (k := k) hq h hp hw hone hcar
    simp only [List.forall_mem_cons, exec, execStc, execCht, execSch]
    exact ⟨htrap, htrap, htrap, List.forall_mem_nil _⟩

/-! ## Returns (R290, R291, R519, R520) -/

/-- The state with the modes and PC that a status word holds under the default `MS_LAYOUT`. -/
theorem returnFromTrap_eq (w : Word) (s : State) :
    returnFromTrap w s =
      { s with compat := position w 0, problem := position w 1, ttrap := position w 2, pc := rightHalf w } := by
  simp only [returnFromTrap, State.loadModes, halfPosition_leftHalf]
  rfl

/-- A packed status word, read back position by position. -/
theorem position_joinHalves_packModes (compat problem ttrap : Bool) (pc : Addr) :
    position (joinHalves (packModes compat problem ttrap) pc) 0 = compat ∧
      position (joinHalves (packModes compat problem ttrap) pc) 1 = problem ∧
        position (joinHalves (packModes compat problem ttrap) pc) 2 = ttrap := by
  have h := halfPosition_packModes compat problem ttrap
  rw [← leftHalf_joinHalves (packModes compat problem ttrap) pc] at h
  rwa [halfPosition_leftHalf, halfPosition_leftHalf, halfPosition_leftHalf] at h

theorem execPtr_of_monitor (hq : s.inside = []) (h : effectiveAddress .double o s = .ok ea) (hp : s.problem = false)
    (hw : s.load ea = some w) :
    exec (.ptr o) s =
      .next { s with
        compat := position w 0, problem := position w 1, ttrap := position w 2, pc := rightHalf w } := by
  show execPtr o s = _
  rw [execPtr, restricted_of_monitor hq h hw hp, returnFromTrap_eq]

/-- What CTR leaves in Monitor Mode, given the word at the CPU status location: the modes and PC of that word, zero in
its place, CTI off and every pending trap of a channel that is not inhibited deliverable. -/
structure ReturnsByCtr (w : Word) (s t : State) : Prop where
  same : t = { s with
    compat := position w 0, problem := position w 1, ttrap := position w 2, pc := rightHalf w, cti := false
    mem := t.mem }
  stored : Stored s t Config.statusLocation [0]
  delivers : ∀ (ch : ChannelId) (k : TrapKind), ch ≠ .special → (s.channel ch).pending k = true →
    maskBit s.ictMask ch = false → t.deliverable ch k = true

theorem returnsByCtr_returnFromChannelTrap (w : Word) (s : State) : ReturnsByCtr w s (returnFromChannelTrap w s) where
  same := by
    simp only [returnFromChannelTrap, State.loadModes, halfPosition_leftHalf]
    rfl
  stored := stored_poke { s.loadModes (leftHalf w) with pc := rightHalf w, cti := false } Config.statusLocation 0
  delivers ch k hch hpending hmask := (State.deliverable_iff _ ch k).2 ⟨hch, hpending, rfl, hmask⟩

theorem execCtr_of_monitor (hq : s.inside = []) (h : effectiveAddress .double o s = .ok ea) (hp : s.problem = false)
    (hw : s.load Config.statusLocation = some w) : ∃ t, exec (.ctr o) s = .next t ∧ ReturnsByCtr w s t := by
  refine ⟨_, ?_, returnsByCtr_returnFromChannelTrap w s⟩
  show execCtr o s = _
  rw [execCtr, withAddress_of_ok hq h, privileged_of_monitor hp, withWord_of_load hq hw, between_of_quiet hq]

/-- Settles O37: both returns unpack a status word, and the word a trap has saved is the one it packed. -/
theorem returnsFromTraps : Obligations.ReturnsFromTraps := by
  unfold Obligations.ReturnsFromTraps
  intro o s ea w hq h hp
  refine ⟨execPtr_of_monitor hq h hp, fun hw => ?ctr, ?trap⟩
  case ctr =>
    obtain ⟨t, ht, hreturn⟩ := execCtr_of_monitor hq h hp hw
    exact ⟨t, ht, hreturn.same, hreturn.stored, hreturn.delivers⟩
  case trap =>
    rintro u c hcompat htransfer rfl rfl
    obtain ⟨h0, h1, h2⟩ := position_joinHalves_packModes u.compat u.problem u.ttrap (c.returnAddress u.il)
    refine ⟨_, execPtr_of_monitor hq h hp (takeTrap_load_save c u), h0, h1, h2, ?_⟩
    exact (rightHalf_joinHalves _ _).trans (CpuTrap.returnAddress_of_completed htransfer hcompat u.il)

/-- Settles O38: CTR's return, of a word that packs the modes. -/
theorem channelTrapReturn : Obligations.ChannelTrapReturn := by
  unfold Obligations.ChannelTrapReturn
  intro o s ea pc compat problem ttrap hq h hp hw
  obtain ⟨t, ht, hreturn⟩ := execCtr_of_monitor hq h hp hw
  obtain ⟨h0, h1, h2⟩ := position_joinHalves_packModes compat problem ttrap pc
  have hsame := hreturn.same
  rw [h0, h1, h2, rightHalf_joinHalves] at hsame
  exact ⟨t, ht, hsame, hreturn.stored, hreturn.delivers⟩

/-! ## Channel traps -/

theorem deliverable_of_chooseTrap {pick : Nat} {ch : ChannelId} {k : TrapKind} (h : s.chooseTrap pick = some (ch, k)) :
    s.deliverable ch k = true := (s.mem_deliverables ch k).1 (List.mem_of_getElem? h)

theorem cpuCycle_of_chooseTrap {pick : Nat} {ch : ChannelId} {k : TrapKind} (hhalted : s.halted = false)
    (h : s.chooseTrap pick = some (ch, k)) : cpuCycle pick s = raiseChannelTrap ch k s := by
  rw [cpuCycle, if_neg (by simp [hhalted]), h]

/-- Taking a channel trap with no turn inside. -/
theorem raiseChannelTrap_of_quiet {ch : ChannelId} {k : TrapKind} (hq : s.inside = []) :
    raiseChannelTrap ch k s = .next (takeChannelTrap ch k s) := withPokes_of_quiet (channelTrapWords ch k s) hq

section
variable (ch : ChannelId) (k : TrapKind) (s)

theorem takeChannelTrap_eq :
    takeChannelTrap ch k s =
      { s with
        compat := false, problem := false, ttrap := false, cti := true, pc := channelTrapAddress ch k
        channels := (s.setChannel ch ((s.channel ch).setPending k false)).channels
        mem := (takeChannelTrap ch k s).mem } :=
  congrArg (State.enterChannelTrap · ch k)
    (State.pokes_eq (s.setChannel ch ((s.channel ch).setPending k false)) (channelTrapWords ch k s))

theorem takeChannelTrap_channel (other : ChannelId) :
    (takeChannelTrap ch k s).channel other =
      (s.setChannel ch ((s.channel ch).setPending k false)).channel other := by
  rw [takeChannelTrap_eq]; rfl

/-- The status location is stored last, so it holds the status word wherever the channel words stand (D3). -/
theorem takeChannelTrap_load_status :
    (takeChannelTrap ch k s).load Config.statusLocation = some (joinHalves s.modeStatus s.pc) :=
  State.load_poke_same _ _ _

theorem takeChannelTrap_load_of_elsewhere {a : Addr} (h : a ∉ channelTrapStores) :
    (takeChannelTrap ch k s).load a = s.load a := by
  refine State.pokes_load_of_other (channelTrapWords ch k s) fun hm => h ?_
  simp only [channelTrapWords, channelTrapStores, List.map_cons, List.map_nil, List.mem_cons, List.not_mem_nil,
    or_false] at hm ⊢
  tauto

end

/-- Settles O55: the turn is the entry of the trap chosen, CTR unpacks the word the entry has saved, and what is
deliverable is read off the gates. -/
theorem channelTrapTaken : Obligations.ChannelTrapTaken := by
  unfold Obligations.ChannelTrapTaken
  refine ⟨?taken, fun s hcti => ?inhibited, fun s ch k => (s.mem_deliverables ch k).trans (s.deliverable_iff ch k)⟩
  case taken =>
    intro s pick rest ch k hscript hhalted hchoose
    obtain ⟨_, hpending, _, _⟩ := (State.deliverable_iff _ ch k).1 (deliverable_of_chooseTrap hchoose)
    have hquiet : s.advance.inside = [] := by simp only [State.advance, hscript, turnsInside]
    have hstep : step s = .next (takeChannelTrap ch k s.advance) := by
      rw [step_of_event hscript, runEvent, cpuCycle_of_chooseTrap (s := s.advance) hhalted hchoose, raiseChannelTrap_of_quiet hquiet]
    have hchannel := takeChannelTrap_channel s.advance ch k
    refine ⟨_, hstep, ?same, hpending, ?cleared, fun other hother => ?other, takeChannelTrap_load_status s.advance ch k,
      fun a => takeChannelTrap_load_of_elsewhere s.advance ch k, fun o ea hea => ?back⟩
    case same =>
      rw [takeChannelTrap_eq]
      simp only [State.advance, hscript, turnsInside, List.tail_cons]
    case cleared => exact (hchannel ch).trans (State.channel_setChannel _ _ _)
    case other => exact (hchannel other).trans (State.channel_setChannel_of_ne _ _ hother)
    case back =>
      obtain ⟨u, hu, hreturn⟩ := execCtr_of_monitor (s := takeChannelTrap ch k s.advance)
        (by rw [takeChannelTrap_eq]; exact hquiet) hea rfl (takeChannelTrap_load_status s.advance ch k)
      obtain ⟨h0, h1, h2⟩ := position_joinHalves_packModes s.compat s.problem s.ttrap s.pc
      refine ⟨u, hu, ?_, ?_, ?_, ?_, ?_⟩ <;> rw [hreturn.same]
      · exact rightHalf_joinHalves _ _
      · exact h0
      · exact h1
      · exact h2
  case inhibited => exact State.deliverables_eq_nil fun ch k => by simp [State.deliverable, hcti]

end Sys2Proof.Machine
end

section
/-! Changes of mode (R254, R255, R502, R523, R524): what an instruction can do in Problem Program Mode is `exec_effect`;
in Monitor Mode every instruction but PTR and CTR ends where it began or by a CPU trap, and so in Monitor Mode. -/

namespace Sys2Proof.Machine

/-! ## Monitor Mode kept -/

/-- Monitor Mode, and 7095 Mode where `c` holds. -/
def InMonitor (c : Prop) (s : State) : Prop := s.problem = false ∧ (c → s.compat = false)

variable {c : Prop} {s u t : State}

theorem InMonitor.of_ordinary (hs : InMonitor c s) (h : Ordinary s t) : InMonitor c t :=
  ⟨h.problem.trans hs.1, fun hc => h.compat.trans (hs.2 hc)⟩

theorem Trapped.inMonitor {x : CpuTrap} (h : Trapped x s t) : InMonitor c t := by
  obtain ⟨u, _, rfl⟩ := h
  exact ⟨rfl, fun _ => rfl⟩

theorem InMonitor.storeFor (hs : InMonitor c s) (ch : ChannelId) (b : Bool) (a : Addr) (w : Word) :
    InMonitor c (s.storeFor ch b a w) := by simpa [InMonitor] using hs

theorem InMonitor.handSpecial (hs : InMonitor c s) (w : Word) : InMonitor c (handSpecial w s) := by
  rw [handSpecial_eq]; exact hs

theorem InMonitor.enableChannels (hs : InMonitor c s) (m : BitVec 6) (l : List ChannelId) :
    InMonitor c (forChannels (enableChannel m) l s) := by
  rw [forChannels_eq fun _ _ => rfl]; exact hs

theorem inMonitor_next (hs : InMonitor c s) (h : Ordinary s u) : Ensures (.next u) (InMonitor c) :=
  ensures_next.2 (hs.of_ordinary h)

theorem inMonitor_done (u : State) (hu : InMonitor c u) : Ensures (.next u) (InMonitor c) := ensures_next.2 hu

theorem inMonitor_raise (x : CpuTrap) (s : State) : Ensures (raise x s) (InMonitor c) :=
  ensures_raise fun _ => Trapped.inMonitor

/-! ## Shared operations: what follows an access starts from Monitor Mode again -/

section
variable (hs : InMonitor c s)
include hs

theorem inMonitor_between {k : State → Result} (h : ∀ u, InMonitor c u → Ensures (k u) (InMonitor c)) :
    Ensures (between s k) (InMonitor c) := ensures_between fun u hu => h u (hs.of_ordinary hu.ordinary)

theorem inMonitor_withWord {a : Addr} {k : Word → State → Result}
    (h : ∀ w u, InMonitor c u → Ensures (k w u) (InMonitor c)) : Ensures (withWord s a k) (InMonitor c) :=
  ensures_withWord fun w u hu => h w u (hs.of_ordinary hu.ordinary)

theorem inMonitor_withWords {n : Nat} {a : Addr} {k : List Word → State → Result}
    (h : ∀ l u, InMonitor c u → Ensures (k l u) (InMonitor c)) : Ensures (withWords s n a k) (InMonitor c) :=
  ensures_withWords n a fun l u _ hu => h l u (hs.of_ordinary hu.ordinary)

theorem inMonitor_withAddress {d : Indexing} {o : Operand} {k : Addr → State → Result}
    (h : ∀ ea u, InMonitor c u → Ensures (k ea u) (InMonitor c)) : Ensures (withAddress d o s k) (InMonitor c) :=
  ensures_withAddress fun ea u hu => h ea u (hs.of_ordinary hu.ordinary)

theorem inMonitor_withOperand {o : Operand} {k : Word → State → Result}
    (h : ∀ w u, InMonitor c u → Ensures (k w u) (InMonitor c)) : Ensures (withOperand o s k) (InMonitor c) :=
  inMonitor_withAddress hs fun _ _ hu => inMonitor_withWord hu h

theorem inMonitor_withIndexOperand {o : Operand} {k : Word → State → Result}
    (h : ∀ w u, InMonitor c u → Ensures (k w u) (InMonitor c)) : Ensures (withIndexOperand o s k) (InMonitor c) :=
  inMonitor_withAddress hs fun _ _ hu => inMonitor_withWord hu h

theorem inMonitor_withDoubleOperand {o : Operand} {k : Word → Word → State → Result}
    (h : ∀ w0 w1 u, InMonitor c u → Ensures (k w0 w1 u) (InMonitor c)) :
    Ensures (withDoubleOperand o s k) (InMonitor c) :=
  inMonitor_withAddress hs fun _ _ hu => inMonitor_withWord hu fun w0 _ hv =>
    inMonitor_withWord hv fun w1 v => h w0 w1 v

theorem inMonitor_withStore {a : Addr} {w : Word} {k : State → Result}
    (h : ∀ u, InMonitor c u → Ensures (k u) (InMonitor c)) : Ensures (withStore a w s k) (InMonitor c) :=
  ensures_withStore (fun _ _ _ => Trapped.inMonitor) fun u hu _ =>
    have hbefore : InMonitor c u := hs.of_ordinary hu.ordinary
    h (u.poke a w) hbefore

theorem inMonitor_withUpdate {a : Addr} {f : Word → Word} {k : State → Result}
    (h : ∀ u, InMonitor c u → Ensures (k u) (InMonitor c)) : Ensures (withUpdate a f s k) (InMonitor c) :=
  inMonitor_withWord hs fun _ _ hu => inMonitor_withStore hu h

omit hs in
theorem inMonitor_withStores {k : State → Result} (l : List Word) (a : Addr) (hs : InMonitor c s)
    (h : ∀ u, InMonitor c u → Ensures (k u) (InMonitor c)) : Ensures (withStores a l s k) (InMonitor c) := by
  induction l generalizing a s with
  | nil => exact h s hs
  | cons w l ih => exact inMonitor_withStore hs fun _ => ih (a + 1)

theorem inMonitor_transferTo (h : Ordinary s u) (ea : Addr) : Ensures (transferTo ea u) (InMonitor c) :=
  have hu : InMonitor c u := hs.of_ordinary h
  ensures_transferTo (fun _ _ => Trapped.inMonitor) fun _ => hu

theorem inMonitor_transferIf (h : Ordinary s u) (b : Bool) (ea : Addr) : Ensures (transferIf b ea u) (InMonitor c) :=
  have hu : InMonitor c u := hs.of_ordinary h
  ensures_transferIf (fun _ _ => Trapped.inMonitor) hu hu

theorem inMonitor_transferOn (b : Bool) (o : Operand) : Ensures (transferOn b o s) (InMonitor c) :=
  inMonitor_withAddress hs fun ea u hu => inMonitor_transferIf hu (.refl u) b ea

theorem inMonitor_closeLoop (rel : Addr → Addr → Bool) (o : Operand) : Ensures (closeLoop rel o s) (InMonitor c) :=
  inMonitor_withAddress hs fun _ u hu => inMonitor_transferIf hu (.setX u _ _) _ _

theorem inMonitor_restricted {o : Operand} {a : Addr → Addr} {k : Word → State → Result}
    (h : ∀ w u, InMonitor c u → Ensures (k w u) (InMonitor c)) :
    Ensures (withAddress .double o s fun ea u => privileged u (withWord u (a ea) k)) (InMonitor c) :=
  inMonitor_withAddress hs fun _ _ hu =>
    ensures_privileged (fun _ _ => Trapped.inMonitor) fun _ => inMonitor_withWord hu h

theorem inMonitor_withCount {o : Operand} {k : Nat → State → State} (h : ∀ n u, Ordinary u (k n u)) :
    Ensures (withCount o s fun n u => .next (k n u)) (InMonitor c) :=
  inMonitor_withAddress hs fun ea u hu => inMonitor_next hu (h (shiftCount ea) u)

theorem inMonitor_storeOperand (o : Operand) (w : Word) : Ensures (storeOperand o w s) (InMonitor c) :=
  inMonitor_withAddress hs fun _ _ hu => inMonitor_withStore hu inMonitor_done

theorem inMonitor_updateOperand (o : Operand) (f : Word → Word) : Ensures (updateOperand o f s) (InMonitor c) :=
  inMonitor_withAddress hs fun _ _ hu => inMonitor_withUpdate hu inMonitor_done

theorem inMonitor_updateIndexOperand (o : Operand) (f : Word → Word) :
    Ensures (updateIndexOperand o f s) (InMonitor c) :=
  inMonitor_withAddress hs fun _ _ hu => inMonitor_withUpdate hu inMonitor_done

theorem inMonitor_storeDouble (o : Operand) (w0 w1 : Word) : Ensures (storeDouble o w0 w1 s) (InMonitor c) :=
  inMonitor_withAddress hs fun _ _ hu => inMonitor_withStores _ _ hu inMonitor_done

theorem inMonitor_finishFloating (h : Ordinary s u) (i : Instr) (r : FpResult) :
    Ensures (finishFloating i r u) (InMonitor c) := by
  have hu : InMonitor c u := hs.of_ordinary h
  exact ensures_afterFloating (fun _ => Trapped.inMonitor) hu

theorem inMonitor_floatingDivide (i : Instr) (o : Operand) : Ensures (floatingDivide i o s) (InMonitor c) :=
  inMonitor_withOperand hs fun _ u hu => ensures_ite (fun _ => inMonitor_raise _ u) fun _ =>
    inMonitor_finishFloating hu (.refl u) _ _

theorem inMonitor_finishDoubleDivide (i : Instr) (r : FpResult) : Ensures (finishDoubleDivide i r s) (InMonitor c) :=
  ensures_ite (fun _ => inMonitor_raise _ _) fun _ =>
    inMonitor_finishFloating hs (u := scratchIndicators s) (.of_same rfl) _ _

theorem inMonitor_changeAcc (f : Acc → Acc) (o : Operand) : Ensures (changeAcc f o s) (InMonitor c) :=
  inMonitor_withAddress hs fun _ _ hu => inMonitor_next hu (.of_same rfl)

theorem inMonitor_changeIndicators (w : Word) (o : Operand) : Ensures (changeIndicators w o s) (InMonitor c) :=
  inMonitor_withAddress hs fun _ _ hu => inMonitor_next hu (.of_same rfl)

theorem inMonitor_maskIndicators (f : Word → Addr → Word) (o : Operand) :
    Ensures (maskIndicators f o s) (InMonitor c) :=
  inMonitor_withAddress hs fun _ _ hu => inMonitor_next hu (.of_same rfl)

theorem inMonitor_testIndicators (f : Word → Addr → Bool) (o : Operand) :
    Ensures (testIndicators f o s) (InMonitor c) :=
  inMonitor_withAddress hs fun _ u hu => inMonitor_next hu (.skipIf u _)

theorem inMonitor_accFromIndex (a : Acc) (o : Operand) : Ensures (accFromIndex a o s) (InMonitor c) :=
  inMonitor_withAddress hs fun _ _ hu => inMonitor_next hu (.of_same rfl)

theorem inMonitor_indexFromAddress (f : Addr → Addr) (o : Operand) :
    Ensures (indexFromAddress f o s) (InMonitor c) :=
  inMonitor_withAddress hs fun _ u hu => inMonitor_next hu (.setX u _ _)

theorem inMonitor_startChannel (ch : ChannelId) (w : Word) : Ensures (startChannel ch w s) (InMonitor c) :=
  ensures_ite (fun _ => ensures_next.2 hs) fun _ => inMonitor_withWord hs fun _ _ hu => ensures_next.2 hu

theorem inMonitor_plusSense (ea : Addr) : Ensures (plusSense ea s) (InMonitor c) :=
  ensures_ite (fun _ => inMonitor_next hs (.of_same rfl)) fun _ =>
    ensures_ite (fun _ => inMonitor_next hs (.of_same rfl)) fun _ =>
      ensures_ite (fun _ => inMonitor_next hs (.skipIf s _)) fun _ => ensures_refused

theorem inMonitor_minusSense (ea : Addr) : Ensures (minusSense ea s) (InMonitor c) :=
  ensures_ite (fun _ => ensures_ite (fun _ => inMonitor_next hs (.of_same rfl)) fun _ => inMonitor_done s hs) fun _ =>
    ensures_refused

omit hs in
theorem inMonitor_withOneChannel {w : Word} {k : ChannelId → Result} (h : ∀ ch, Ensures (k ch) (InMonitor c)) :
    Ensures (withOneChannel w s k) (InMonitor c) := ensures_withOneChannel (fun _ _ => Trapped.inMonitor) h

end

/-! ## Every instruction -/

/-- The instructions that load the modes from a status word (R519, R520). -/
def LoadsModes (i : Instr) : Prop := ∃ o, i = .ptr o ∨ i = .ctr o

/-- Every other instruction stays in Monitor Mode; the cases stand together by what they do with their operand. Each
goal is brought to the instruction's own meaning first: `exec` itself is too large to be unfolded by unification. -/
theorem exec_inMonitor (i : Instr) (hx : ∀ o, i ≠ .xec o) (hmodes : ¬ LoadsModes i) (hs : InMonitor c s) :
    Ensures (exec i s) (InMonitor c) := by
  cases i with dsimp only [exec]
  | xec o => exact absurd rfl (hx o)
  | ptr o => exact absurd ⟨o, .inl rfl⟩ hmodes
  | ctr o => exact absurd ⟨o, .inr rfl⟩ hmodes
  -- an operand is read and registers are set
  | cla o | cal o | cls o | lla o | lra o | ldq o | acl o | mpy o | ora o | ana o | era o | ldi o | osi o | ris o
  | iis o | laci o | flt o | add o | adm o | sub o | sbm o =>
    exact inMonitor_withOperand hs fun _ _ hu => inMonitor_next hu (.of_same rfl)
  | mpr o =>
    exact inMonitor_withOperand hs fun _ _ hu => inMonitor_next hu (.of_same (by unfold roundProduct; split <;> rfl))
  | dla o | dlld o | dldn o =>
    exact inMonitor_withDoubleOperand hs fun _ _ _ hu => inMonitor_next hu (.of_same rfl)
  | rcpu o =>
    exact inMonitor_withAddress hs fun _ _ hu => inMonitor_withWord hu fun _ _ hv => inMonitor_withWord hv fun _ _ hw =>
      inMonitor_withWords hw fun _ u hu => inMonitor_next hu (.restoreProcessor u _ _ _ _)
  -- only the address is formed, and registers are set
  | xca o | xcl o | enk o | nop o | hpr o | ttr o | etm o | ltm o | pia o | sxar o =>
    exact inMonitor_withAddress hs fun _ _ hu => inMonitor_next hu (.of_same rfl)
  | als o | ars o | lls o | lrs o | lgl o | lgr o | rql o => exact inMonitor_withCount hs fun _ _ => .of_same rfl
  | com o | clm o | chs o | ssp o | ssm o => exact inMonitor_changeAcc hs _ o
  | pai o | oai o | ria o | iia o => exact inMonitor_changeIndicators hs _ o
  | ril o | rir o | sil o | sir o | iil o | iir o => exact inMonitor_maskIndicators hs _ o
  | pxa o | pxd o | pcd o | pca o => exact inMonitor_accFromIndex hs _ o
  | rnd o => exact inMonitor_withAddress hs fun _ _ hu => inMonitor_next hu (.of_same (by split <;> rfl))
  -- stores
  | sto o | slw o | stan o | stq o | stz o | sti o | saci o =>
    exact inMonitor_storeOperand hs o _
  | stal o | star o | slq o | stl o | ors o | ans o | ers o | ados o | ois o | lasi o =>
    exact inMonitor_updateOperand hs o _
  | sxa o | sxd o | sca o | scd o => exact inMonitor_updateIndexOperand hs o _
  | dst o | dlsf o | dstn o => exact inMonitor_storeDouble hs o _ _
  | scpu o =>
    exact inMonitor_withAddress hs fun _ _ hu => inMonitor_withStores _ _ hu inMonitor_done
  | smx o =>
    exact inMonitor_withAddress hs fun _ u hu => ensures_ite (fun _ => inMonitor_done u hu) fun _ =>
      inMonitor_withUpdate hu fun _ hv => inMonitor_withStores _ _ hv inMonitor_done
  -- fixed point with a count, a check of the accumulator or a divide check
  | imp o =>
    exact inMonitor_withAddress hs fun _ _ hu => ensures_ite
      (fun _ => inMonitor_withWord hu fun _ _ hv =>
        inMonitor_next hv (.of_same (by unfold integerMultiply; simp only; split <;> rfl)))
      fun _ => ensures_refused
  | vlm o =>
    exact inMonitor_withAddress hs fun _ u hu => ensures_ite (fun _ => inMonitor_done u hu) fun _ =>
      inMonitor_withWord hu fun _ _ hv => inMonitor_next hv (.of_same rfl)
  | dvt o =>
    exact inMonitor_withOperand hs fun _ u hu => ensures_ite (fun _ => inMonitor_raise _ u) fun _ =>
      inMonitor_next hu (.of_same rfl)
  | idv o =>
    exact inMonitor_withAddress hs fun _ _ hu => ensures_ite
      (fun _ => inMonitor_withWord hu fun _ v hv => ensures_ite (fun _ => inMonitor_raise _ v) fun _ =>
        inMonitor_next hv (.of_same rfl))
      fun _ => ensures_refused
  | vdt o =>
    exact inMonitor_withAddress hs fun _ u hu => ensures_ite (fun _ => inMonitor_done u hu) fun _ =>
      inMonitor_withWord hu fun _ v hv => ensures_ite (fun _ => inMonitor_raise _ v) fun _ =>
        inMonitor_next hv (.of_same rfl)
  -- floating point
  | fad o | fam o | ufa o | uam o | fsb o | fsm o | ufs o | usm o | fmp o | ufm o =>
    exact inMonitor_withOperand hs fun _ u hu => inMonitor_finishFloating hu (.refl u) _ _
  | fdt o | fdh o => exact inMonitor_floatingDivide hs _ o
  | frn o | adxp o =>
    exact inMonitor_withAddress hs fun _ u hu => ensures_afterFloating (fun _ => Trapped.inMonitor) hu
  | frd o =>
    exact inMonitor_withAddress hs fun _ _ hu => ensures_ite
      (fun _ => inMonitor_withWord hu fun _ v hv => ensures_ite (fun _ => inMonitor_raise _ v) fun _ =>
        ensures_afterFloating (fun _ => Trapped.inMonitor) hv)
      fun _ => ensures_refused
  | dfad o | dfam o | dufa o | duam o | dfsb o | dfsm o | dufs o | dusm o =>
    exact inMonitor_withDoubleOperand hs fun _ _ u hu => inMonitor_finishFloating hu (.refl u) _ _
  | dfmp o | dufm o =>
    exact inMonitor_withDoubleOperand hs fun _ _ u hu =>
      inMonitor_finishFloating hu (u := scratchIndicators u) (.of_same rfl) _ _
  | dfdt o | dfrd o =>
    exact inMonitor_withDoubleOperand hs fun _ _ _ hu => inMonitor_finishDoubleDivide hu _ _
  | fix o =>
    exact inMonitor_withOperand hs fun _ _ hu => ensures_ite (fun _ => inMonitor_raise _ _) fun _ =>
      inMonitor_next hu (.of_same rfl)
  -- transfers, tests and skips
  | htr o =>
    exact inMonitor_withAddress hs fun _ u hu =>
      inMonitor_transferTo hu (u := { u with halted := true }) (.of_same rfl) _
  | tov o | tno o => 
    exact inMonitor_withAddress hs fun _ u hu =>
      inMonitor_transferIf hu (u := { u with ov := false }) (.of_same rfl) _ _
  | tsl o => exact inMonitor_withAddress hs fun _ _ hu => inMonitor_withUpdate hu fun v hv => inMonitor_transferTo hv (.refl v) _
  | tsx o => exact inMonitor_withAddress hs fun _ u hu => inMonitor_transferTo hu (.setX u _ _) _
  | txf o => exact inMonitor_withAddress hs fun _ u hu => inMonitor_transferIf hu (.setX u _ _) _ _
  | tra o | tze o | tnz o | tpl o | tmi o | tzm o | tzp o | tgz o | tlz o | tqp o | tlq o | txrh o | txnh o | txrl o
  | txnl o | txre o | txne o => exact inMonitor_transferOn hs _ o
  | xlf o | xlb o => exact inMonitor_closeLoop hs _ o
  | pse o => exact inMonitor_withAddress hs fun ea _ hu => inMonitor_plusSense hu ea
  | mse o => exact inMonitor_withAddress hs fun ea _ hu => inMonitor_minusSense hu ea
  | pbt o | lbt o =>
    exact inMonitor_withAddress hs fun _ u hu => inMonitor_next hu (.skipIf u _)
  | rft o | rnt o | lft o | lnt o => exact inMonitor_testIndicators hs _ o
  | zet o | nzt o | oft o | ont o => exact inMonitor_withOperand hs fun _ u hu => inMonitor_next hu (.skipIf u _)
  | cas o | las o | casi o => exact inMonitor_withOperand hs fun _ u hu => inMonitor_next hu (.skipOn u _)
  | cmon o => exact inMonitor_withAddress hs fun ea u _ => inMonitor_raise (.monitorCall ea) u
  -- index registers
  | axi o | axc o => exact inMonitor_indexFromAddress hs _ o
  | pax o | pac o | pdc o | pchx o =>
    exact inMonitor_withAddress hs fun _ u hu => inMonitor_next hu (.setX u _ _)
  | lxa o | lxd o | lac o | ldc o | adxs o | sbxs o | lxs o =>
    exact inMonitor_withIndexOperand hs fun _ u hu => inMonitor_next hu (.setX u _ _)
  | adxd o =>
    exact inMonitor_withAddress hs fun _ u hu => ensures_ite (fun _ => inMonitor_done u hu) fun _ =>
      inMonitor_withWord hu fun _ v hv => inMonitor_next hv (.addToIndex v _ _)
  | sbxd o =>
    exact inMonitor_withAddress hs fun _ u hu => ensures_ite (fun _ => inMonitor_done u hu) fun _ =>
      inMonitor_withWord hu fun _ v hv => inMonitor_next hv (.subtractFromIndex v _ _)
  | adxi o => exact inMonitor_withAddress hs fun _ u hu => inMonitor_next hu (.ite (.refl u) (.addToIndex u _ _))
  | sbxi o => exact inMonitor_withAddress hs fun _ u hu => inMonitor_next hu (.ite (.refl u) (.subtractFromIndex u _ _))
  | cxs o | cxd o => exact inMonitor_withIndexOperand hs fun _ u hu => inMonitor_next hu (.compareIndex u _ _)
  | cxi o => exact inMonitor_withAddress hs fun _ u hu => inMonitor_next hu (.compareIndex u _ _)
  | lmx o =>
    exact inMonitor_withAddress hs fun _ u hu => ensures_ite (fun _ => inMonitor_done u hu) fun _ =>
      inMonitor_withWord hu fun _ _ hv => inMonitor_withWords hv fun _ u hu =>
        inMonitor_next hu ((Ordinary.setX u _ _).trans (.loadPairs _ _ _ _))
  | sqxl o => exact inMonitor_withAddress hs fun _ _ hu => inMonitor_next hu (.thenSetX (.of_same rfl))
  | sqxt o =>
    exact inMonitor_withAddress hs fun _ _ hu => ensures_ite (fun _ => ensures_refused) fun _ =>
      inMonitor_next hu (.thenSkipIf (.thenSetX (.thenSetX (.of_same rfl))))
  | sxat o =>
    exact inMonitor_withAddress hs fun _ _ hu => ensures_ite (fun _ => ensures_refused) fun _ =>
      inMonitor_next hu (.thenSkipIf (.thenSetX (.of_same rfl)))
  -- restricted and input-output instructions
  | smp o | scar o => exact inMonitor_restricted hs fun _ u hu => ensures_next.2 hu
  | ict o =>
    exact inMonitor_restricted hs fun w u hu =>
      ensures_next.2 (InMonitor.handSpecial (s := { u with ictMask := selectMask w }) hu w)
  | enb o =>
    exact inMonitor_restricted hs fun w _ hu =>
      ensures_next.2 ((hu.enableChannels (enableMask w) (selected w)).handSpecial w)
  | stc o =>
    exact inMonitor_withOperand hs fun w u hu => inMonitor_withOneChannel fun ch =>
      ensures_ite (fun _ => ensures_next.2 (hu.handSpecial w)) fun _ => inMonitor_startChannel hu ch w
  | cht o =>
    exact inMonitor_withOperand hs fun w _ hu => inMonitor_withOneChannel fun _ => inMonitor_between hu fun _ hv =>
      ensures_next.2 (((hv.storeFor _ _ _ _).of_ordinary (.skipIf _ _)).handSpecial w)
  | sch o =>
    exact inMonitor_withOperand hs fun w _ hu => inMonitor_withOneChannel fun _ => inMonitor_between hu fun _ hv =>
      inMonitor_between (hv.storeFor _ _ _ _) fun _ hx => ensures_next.2 ((hx.storeFor _ _ _ _).handSpecial w)
  | hch o =>
    exact inMonitor_withOperand hs fun w u hu => ensures_ite (fun _ => inMonitor_raise _ u) fun _ =>
      inMonitor_next hu (.thenHandSpecial (.forChannels Ordinary.requestHalt _ u))
  -- what the source leaves undefined or undescribed
  | ltmr o | stmr o | lrtc o | srtc o | cdec o | cbin o | sbp o =>
    exact inMonitor_withAddress hs fun _ _ _ => ensures_refused
  -- the words of a channel
  | chSense m f y | chReadBackward m f y | chWrite m f y | chRead m f y | chControl m f y =>
    exact (commanded_controlUnitOperation _).mono fun _ h => hs.of_ordinary h.ordinary
  | chTch f y => exact (commanded_execChTch f y).mono fun _ h => hs.of_ordinary h.ordinary
  | chXec f y => exact (commanded_execChXec f y).mono fun _ h => hs.of_ordinary h.ordinary
  | dcwTcw k y | dcwCcw k y | dcwCcwn k y =>
    exact (commanded_loadControlWord _ _ k y).mono fun _ h => hs.of_ordinary h.ordinary
  | dcwTcwInd k y | dcwCcwInd k y =>
    exact (commanded_loadIndirectControlWord _ k y).mono fun _ h => hs.of_ordinary h.ordinary

/-! ## The way to the end of an XEC chain -/

/-- The turns before an access reach neither mode. -/
def SameModes (s u : State) : Prop := u.problem = s.problem ∧ u.compat = s.compat

theorem SameModes.refl (s : State) : SameModes s s := ⟨rfl, rfl⟩

theorem SameModes.trans (h : SameModes s t) (g : SameModes t u) : SameModes s u :=
  ⟨g.1.trans h.1, g.2.trans h.2⟩

theorem BeforeAccess.sameModes (h : BeforeAccess s u) : SameModes s u := by
  unfold BeforeAccess at h
  split at h
  · subst h; exact .refl _
  · next turns rest _ => rw [(turned_runTurns turns _ h).same]; exact ⟨rfl, rfl⟩

theorem Addresses.sameModes {d : Indexing} {o : Operand} {ea : Addr} (h : Addresses d o s ea u) : SameModes s u := by
  induction h with
  | direct _ => exact .refl _
  | indirect _ hr _ ih => exact hr.1.sameModes.trans ih

theorem Decodes.sameModes {w : Word} {i : Instr} (h : Decodes s w i u) : SameModes s u := by
  cases h with
  | plain _ _ => exact .refl _
  | selector _ ha _ => exact ha.sameModes

theorem ComesTo.sameModes {i j : Instr} (h : ComesTo s i u j) : SameModes s u := by
  induction h with
  | here _ => exact .refl _
  | object ha hr hd _ ih => exact ha.sameModes.trans (hr.1.sameModes.trans (hd.sameModes.trans ih))

/-! ## Traps leave for Monitor Mode -/

theorem CpuTrap.target_mem {x : CpuTrap} (h : x.target ≠ .r8) : locationAddress x.target ∈ cpuTrapTargets := by
  cases x with
  | ioInCompatibleMode op ea => exact absurd rfl h
  | floatingPoint i sp | divideCheck | protectViolation | illegalOperation | transfer | monitorCall ea =>
    simp [cpuTrapTargets, CpuTrap.target]

/-- Settles O58: in Problem Program Mode the restricted instructions' work is not done, and of the rest a trap's entry
alone changes the modes; in Monitor Mode an instruction comes to one that, unless it is PTR or CTR, stays there. -/
theorem modeChanges : Obligations.ModeChanges := by
  unfold Obligations.ModeChanges
  refine fun i s t h => ⟨fun hp => ?problem, fun hp hmodes => ?monitor⟩
  case problem =>
    cases exec_effect s i t h with
    | ordinary hord => exact .inl ⟨hord.problem.trans hp, hord.compat⟩
    | trap x _ hx htrap =>
      obtain ⟨v, _, rfl⟩ := htrap
      exact .inr ⟨CpuTrap.target_mem hx, rfl, rfl, rfl⟩
    | monitor hmonitor _ => exact absurd (hmonitor.symm.trans hp) Bool.false_ne_true
  case monitor =>
    obtain ⟨u, j, hc, hj⟩ := exec_comesTo h
    refine ⟨u, j, hc, by_contra fun hother => ?_⟩
    obtain ⟨hproblem, hcompat⟩ := hc.sameModes
    have hu : InMonitor (s.compat = false) u := ⟨hproblem.trans hp, hcompat.trans⟩
    obtain ⟨htp, htc⟩ := exec_inMonitor j hc.ne_xec hother hu t hj
    rcases hmodes with hmode | ⟨hs, hmode⟩
    · exact Bool.false_ne_true (htp.symm.trans hmode)
    · exact Bool.false_ne_true ((htc hs).symm.trans hmode)

end Sys2Proof.Machine
end

section
/-! What a channel does in its own turn (R451-R466, R471, R472): each command and data control word by whether a command
or a data control word is wanted, the ends of a transmission and of a command, and what a turn leaves alone. -/

namespace Sys2Proof.Machine

variable {s t u : State} {r : DeviceReply} {f : CmdFlags} {y a : Addr} {n : BitVec 15} {w : Word}

/-! ## Where a command is wanted -/

section
variable (hc : (s.channel s.acting).phase.current = none)
include hc

/-- A control unit operation is sent to the control unit; Control Immediate completes at once (R454, R466). -/
theorem controlUnitOperation_of_wanted (cmd : Command) :
    controlUnitOperation cmd s =
      .next { s.setChannel s.acting
          { s.channel s.acting with
            phase := if cmd.operation = .control ∧ cmd.flags.immediate = true then .complete cmd
              else .fetch (some cmd) } with
        outbox := .order s.acting (s.channel s.acting).unit cmd.order :: s.outbox } := by
  have hcur : s.currentCommand = none := hc
  rw [controlUnitOperation, hcur]
  simp only [Bool.and_eq_true, decide_eq_true_eq]
  split <;> rfl

/-- The object of an XEC, or the word its object's address is taken from, is read in the XEC's own turn (R456). -/
theorem execChXec_of_wanted (hw : s.load y = some w) :
    execChXec f y s = .next (s.enter (if f.indirect then .object (rightHalf w) else .decode none w)) := by
  have hcur : s.currentCommand = none := hc
  rw [execChXec, hcur]
  dsimp only
  rw [channelObject, readWord_of_load hw, readWord_of_load hw]
  split <;> rfl

theorem loadControlWord_of_wanted (chain off : Bool) :
    loadControlWord chain off n y s = .next (s.enter (.fetch none)) := by
  have hcur : s.currentCommand = none := hc
  rw [loadControlWord, hcur]

theorem loadIndirectControlWord_of_wanted (chain : Bool) :
    loadIndirectControlWord chain n y s = .next (s.enter (.fetch none)) := by
  have hcur : s.currentCommand = none := hc
  rw [loadIndirectControlWord, hcur]

/-- A data control word is ignored (R457, R465). -/
theorem exec_controlWord_of_wanted (n : BitVec 15) (y : Addr) :
    ∀ i ∈ [Instr.dcwTcw n y, .dcwTcwInd n y, .dcwCcw n y, .dcwCcwn n y, .dcwCcwInd n y],
      exec i s = .next (s.enter (.fetch none)) := by
  have hdirect {chain off} := loadControlWord_of_wanted (n := n) (y := y) hc chain off
  have hindirect {chain} := loadIndirectControlWord_of_wanted (n := n) (y := y) hc chain
  simp only [List.forall_mem_cons]
  exact ⟨hdirect, hindirect, hdirect, hdirect, hindirect, List.forall_mem_nil _⟩

end

/-! ## Where a data control word is wanted -/

section
variable {cmd : Command} (hc : (s.channel s.acting).phase.current = some cmd)
include hc

theorem controlUnitOperation_of_current (cmd' : Command) :
    controlUnitOperation cmd' s = .next (s.enter .environment) := by
  have hcur : s.currentCommand = some cmd := hc
  rw [controlUnitOperation, hcur]

theorem execChXec_of_current : execChXec f y s = .next (s.enter .environment) := by
  have hcur : s.currentCommand = some cmd := hc
  rw [execChXec, hcur]

theorem loadControlWord_of_current (chain off : Bool) (a : Addr) :
    loadControlWord chain off n a s =
      .next (s.setChannel s.acting
        { s.channel s.acting with wc := n, da := a, phase := .transmit cmd chain off }) := by
  have hcur : s.currentCommand = some cmd := hc
  rw [loadControlWord, hcur]
  rfl

/-- The address is taken through one indirect word, whose sign must be off (R460, R463). -/
theorem loadIndirectControlWord_of_current (hw : s.load y = some w) (chain : Bool) :
    loadIndirectControlWord chain n y s =
      if signOf w then .refused .wideDataAddress else loadControlWord chain false n (rightHalf w) s := by
  have hcur : s.currentCommand = some cmd := hc
  rw [loadIndirectControlWord, hcur]
  exact readWord_of_load hw

end

theorem channelObject_of_load (hw : s.load a = some w) : channelObject a s = .next (s.enter (.decode none w)) :=
  readWord_of_load hw

theorem channelStep_of_object (hp : (s.channel s.acting).phase = .object a) (hw : s.load a = some w) :
    channelStep r s = .next (s.enter (.decode none w)) := by
  rw [channelStep, hp]
  exact channelObject_of_load hw

/-- TCH moves the Location Counter to its address, or to that in the indirect word (R453, R455). -/
theorem execChTch_of_address (h : if f.indirect then (s.load y).map rightHalf = some a else a = y) :
    execChTch f y s =
      .next (s.setChannel s.acting
        { s.channel s.acting with lc := a, phase := .fetch (s.channel s.acting).phase.current }) := by
  rw [execChTch, withCommandAddress]
  split_ifs at h ⊢
  · obtain ⟨w, hw, rfl⟩ := Option.map_eq_some_iff.1 h
    exact readWord_of_load hw
  · rw [h]; rfl

/-- Settles O51: the phase's current command says what is wanted, and each word does its one thing by that. -/
theorem channelWordsExecuted : Obligations.ChannelWordsExecuted := by
  unfold Obligations.ChannelWordsExecuted
  rintro s f y _ rfl
  refine ⟨fun hc => ⟨fun m4 m6 => ?unit, fun w => execChXec_of_wanted hc, fun n => exec_controlWord_of_wanted hc n y⟩,
    fun a w r hp hw => channelStep_of_object hp hw, fun a => execChTch_of_address,
    fun cmd n hc => ⟨fun m4 m6 => ?left, ?direct, fun w hw => ?indirect⟩⟩
  case unit =>
    have hunit := controlUnitOperation_of_wanted hc
    intro p hp
    simp only [List.mem_cons, List.not_mem_nil, or_false] at hp
    rcases hp with rfl | rfl | rfl | rfl | rfl <;> exact hunit _
  case left =>
    have hunit := controlUnitOperation_of_current hc
    simp only [List.forall_mem_cons]
    exact ⟨hunit _, hunit _, hunit _, hunit _, hunit _, execChXec_of_current hc, List.forall_mem_nil _⟩
  case direct =>
    have hload := loadControlWord_of_current (n := n) hc
    simp only [List.forall_mem_cons]
    exact ⟨hload _ _ _, hload _ _ _, hload _ _ _, List.forall_mem_nil _⟩
  case indirect =>
    have hword (chain : Bool) := loadIndirectControlWord_of_current (n := n) hc hw chain
    have hboth (chain : Bool) :
        (signOf w = true → loadIndirectControlWord chain n y s = .refused .wideDataAddress) ∧
          (signOf w = false → loadIndirectControlWord chain n y s =
            .next (s.setChannel s.acting
              { s.channel s.acting with wc := n, da := rightHalf w, phase := .transmit cmd chain false })) := by
      refine ⟨fun hs => (hword chain).trans (if_pos hs), fun hs => ?_⟩
      rw [hword, if_neg (by simp [hs]), loadControlWord_of_current hc]
    simp only [List.forall_mem_cons]
    exact ⟨hboth false, hboth true, List.forall_mem_nil _⟩

/-! ## The ends of a transmission and of a command -/

section
variable {cmd : Command} {chain off : Bool}

theorem transmitStep_of_end (he : r.endSignal = true) :
    transmitStep cmd chain off r s = .next (s.enter (.complete cmd)) := if_pos he

theorem transmitStep_of_unchained (he : r.endSignal = false) (hz : (s.channel s.acting).wc = 0) :
    transmitStep cmd false off r s = .next (s.enter (.complete cmd)) := by
  rw [transmitStep, if_neg (by simp [he]), if_pos hz, if_neg Bool.false_ne_true]

theorem countWord_phase (op : UnitOperation) (r : DeviceReply) (s : State) :
    ((countWord op r s).channel s.acting).phase = (s.channel s.acting).phase := by
  rw [countWord, State.acts, State.channel_setChannel]

/-- Moving a word leaves the channel transmitting, but for a violating store (R83, R466). -/
theorem transmitWord_phase (op : UnitOperation) (off : Bool) (r : DeviceReply) (s : State) :
    Ensures (transmitWord op off r s) fun t =>
      (t.channel s.acting).phase = (s.channel s.acting).phase ∨
        (t.channel s.acting).phase = .environment ∧
          s.channelViolates (s.channel s.acting).inhibit (s.channel s.acting).da = true := by
  refine ensures_ite (fun _ => ?_) fun _ => ensures_readWord fun w _ =>
    ensures_next.2 (.inl (countWord_phase op r { s with outbox := .word s.acting w :: s.outbox }))
  refine ensures_ite (fun _ => ensures_next.2 (.inl (countWord_phase op r s))) fun _ => ?_
  refine ensures_ite (fun hv => ensures_next.2 (.inr ⟨?_, hv⟩)) fun _ =>
    ensures_next.2 (.inl (countWord_phase op r (s.poke _ r.word)))
  rw [State.enter, State.acts, State.channel_setChannel]

theorem Channel.completed_of_advance {c : Channel} (h : r.conditions.any = false) (hhalt : c.haltRequest = false)
    (hadvance : cmd.flags.advance = true) :
    c.completed cmd r = { c with status := r.status, phase := .fetch none } := by
  simp only [Channel.completed, h, hhalt, hadvance, Bool.false_eq_true, if_false, if_true]

/-- A completion that disconnects leaves the channel not in use (R465). -/
theorem busy_of_disconnected {c : Channel} (hp : (s.channel s.acting).phase = .complete cmd)
    (h : (s.channel s.acting).completed cmd r = c.disconnect) :
    ∃ t, channelStep r s = .next t ∧ (t.channel s.acting).busy = false := by
  refine ⟨_, channelStep_of_complete hp, ?_⟩
  rw [State.acts, State.channel_setChannel, h]
  exact Channel.busy_eq_false.2 c.disconnect_phase

end

/-- A word that is no command is read as a data control word (R457). -/
theorem controlWord_of_decodeChannel {i : Instr} (hw : isCommand w = false) (hd : decodeChannel w = some i) :
    ∃ n y, i ∈ [Instr.dcwTcw n y, .dcwTcwInd n y, .dcwCcw n y, .dcwCcwn n y, .dcwCcwInd n y] := by
  rw [decodeChannel, if_neg (by simp [hw])] at hd
  refine ⟨w.extractLsb' 18 15, rightHalf w, ?_⟩
  dsimp only [decodeControlWord] at hd
  split_ifs at hd <;> cases hd <;> simp

/-- Settles O53: an end signal and a word count of zero are looked at before a word is moved, and the completion's
branches are those of R465. -/
theorem chainingAndAdvance : Obligations.ChainingAndAdvance := by
  unfold Obligations.ChainingAndAdvance
  rintro s r _ cmd chain off rfl
  refine ⟨fun hp => ⟨fun he => ?ended, ?chain, ?unchained, fun he hz t ht => ?word⟩,
    fun hp => ⟨fun hany => ?unusual, fun hany hhalt hadvance => ?advance, fun hany hadvance => ?disconnect⟩,
    fun w i hp hw hd => ?ignored⟩
  case ended => exact (channelStep_of_transmit hp).trans (transmitStep_of_end he)
  case chain =>
    rintro he hz rfl
    refine ⟨_, (channelStep_of_transmit hp).trans (transmitStep_of_chain he hz), ?_⟩
    simp only [State.enter, State.acts, State.setChannel_setChannel, State.channel_setChannel, Channel.note_chain,
      State.setChannel_acting]
    exact ⟨trivial, trivial, fun hen => by rw [hen, Bool.or_true]⟩
  case unchained =>
    rintro he hz rfl
    exact (channelStep_of_transmit hp).trans (transmitStep_of_unchained he hz)
  case word =>
    rw [channelStep_of_transmit hp, transmitStep_of_word he hz] at ht
    rw [← hp]
    exact transmitWord_phase _ _ _ _ t ht
  case unusual => exact busy_of_disconnected hp (Channel.completed_of_unusual _ _ hany)
  case advance =>
    rw [channelStep_of_complete hp, State.acts, Channel.completed_of_advance hany hhalt hadvance]
  case disconnect => exact busy_of_disconnected hp (Channel.completed_of_end hany (.inr hadvance))
  case ignored =>
    obtain ⟨n, y, hi⟩ := controlWord_of_decodeChannel hw hd
    rw [channelStep_of_decode hp hd]
    exact exec_controlWord_of_wanted (by rw [hp]; rfl) n y i hi

/-! ## What a channel's turn leaves alone -/

/-- What a channel does besides storing: it changes itself and what it sends. -/
structure OwnChange (s t : State) : Prop where
  same : t = { s with channels := t.channels, outbox := t.outbox }
  others : ∀ other, other ≠ s.acting → t.channel other = s.channel other

theorem OwnChange.refl (s : State) : OwnChange s s := ⟨rfl, fun _ _ => rfl⟩

theorem OwnChange.outbox (s : State) (l : List Sent) : OwnChange s { s with outbox := l } := ⟨rfl, fun _ _ => rfl⟩

theorem OwnChange.acts (s : State) (g : Channel → Channel) : OwnChange s (s.acts g) :=
  ⟨rfl, fun _ h => State.channel_setChannel_of_ne _ _ h⟩

theorem OwnChange.trans (h : OwnChange s t) (g : OwnChange t u) : OwnChange s u where
  same := by rw [g.same, h.same]
  others other ho := (g.others other (by rwa [h.same])).trans (h.others other ho)

theorem ownChange_controlUnitOperation (cmd : Command) : Ensures (controlUnitOperation cmd s) (OwnChange s) := by
  unfold controlUnitOperation
  split
  · exact ensures_next.2 (.acts s _)
  · exact ensures_ite (fun _ => ensures_next.2 ((OwnChange.outbox s _).trans (.acts _ _))) fun _ =>
      ensures_next.2 ((OwnChange.outbox s _).trans (.acts _ _))

theorem ownChange_channelObject (a : Addr) : Ensures (channelObject a s) (OwnChange s) :=
  ensures_readWord fun _ _ => ensures_next.2 (.acts s _)

theorem ownChange_execChXec (f : CmdFlags) (y : Addr) : Ensures (execChXec f y s) (OwnChange s) := by
  unfold execChXec
  split
  · exact ensures_next.2 (.acts s _)
  · exact ensures_ite (fun _ => ensures_readWord fun _ _ => ensures_next.2 (.acts s _)) fun _ =>
      ownChange_channelObject y

theorem ownChange_loadControlWord (chain off : Bool) (n : BitVec 15) (a : Addr) :
    Ensures (loadControlWord chain off n a s) (OwnChange s) := by
  unfold loadControlWord
  split <;> exact ensures_next.2 (.acts s _)

theorem ownChange_loadIndirectControlWord (chain : Bool) (n : BitVec 15) (y : Addr) :
    Ensures (loadIndirectControlWord chain n y s) (OwnChange s) := by
  unfold loadIndirectControlWord
  split
  · exact ensures_next.2 (.acts s _)
  · exact ensures_readWord fun _ _ => ensures_ite (fun _ => ensures_refused) fun _ =>
      ownChange_loadControlWord _ _ _ _

theorem ownChange_performChannel (i : Instr) : Ensures (performChannel i s) (OwnChange s) := by
  unfold performChannel
  split
  case h_6 => exact ensures_withCommandAddress fun _ => ensures_next.2 (.acts s _)
  case h_7 => exact ownChange_execChXec _ _
  case h_9 | h_12 => exact ownChange_loadIndirectControlWord _ _ _
  case h_8 | h_10 | h_11 => exact ownChange_loadControlWord _ _ _ _
  case h_13 => exact ensures_next.2 (.refl s)
  all_goals exact ownChange_controlUnitOperation _

theorem ownChange_channelDecode (w : Word) : Ensures (channelDecode w s) (OwnChange s) := by
  unfold channelDecode
  split
  · exact ownChange_performChannel _
  · unfold unassignedWord
    split <;> exact ensures_next.2 (.acts s _)

/-- A channel's own turn from `s` to `t`: at most one word is stored, where protection lets the channel store, and then
the channel changes itself and what it sends. -/
def OwnTurn (s t : State) : Prop :=
  OwnChange s t ∨
    ∃ w, s.channelViolates (s.channel s.acting).inhibit (s.channel s.acting).da = false ∧
      OwnChange (s.poke (s.channel s.acting).da w) t

theorem ownTurn_transmitWord (op : UnitOperation) (off : Bool) (r : DeviceReply) :
    Ensures (transmitWord op off r s) (OwnTurn s) := by
  refine ensures_ite (fun _ => ?_) fun _ => ensures_readWord fun w _ =>
    ensures_next.2 (.inl ((OwnChange.outbox s _).trans (.acts _ _)))
  refine ensures_ite (fun _ => ensures_next.2 (.inl (.acts s _))) fun _ => ?_
  exact ensures_ite (fun _ => ensures_next.2 (.inl (.acts s _))) fun hv =>
    ensures_next.2 (.inr ⟨r.word, Bool.eq_false_of_not_eq_true hv, .acts _ _⟩)

theorem ownTurn_transmitStep (cmd : Command) (chain off : Bool) (r : DeviceReply) :
    Ensures (transmitStep cmd chain off r s) (OwnTurn s) :=
  ensures_ite (fun _ => ensures_next.2 (.inl (.acts s _))) fun _ =>
    ensures_ite
      (fun _ => ensures_ite (fun _ => ensures_next.2 (.inl ((OwnChange.acts s _).trans (.acts _ _)))) fun _ =>
        ensures_next.2 (.inl (.acts s _)))
      fun _ => ownTurn_transmitWord _ _ _

theorem ownTurn_channelStep (r : DeviceReply) (s : State) : Ensures (channelStep r s) (OwnTurn s) := by
  unfold channelStep
  split
  · exact ensures_next.2 (.inl (.refl s))
  · exact ensures_next.2 (.inl (.refl s))
  · exact ensures_readWord fun _ _ => ensures_next.2 (.inl (.acts s _))
  · exact (ownChange_channelDecode _).mono fun _ => .inl
  · exact (ownChange_channelObject _).mono fun _ => .inl
  · exact ownTurn_transmitStep _ _ _ _
  · exact ensures_next.2 (.inl (.acts s _))

theorem OwnTurn.same (h : OwnTurn s t) : t = { s with channels := t.channels, mem := t.mem, outbox := t.outbox } := by
  obtain h | ⟨w, _, h⟩ := h
  · rw [h.same]
  · rw [h.same]; rfl

theorem OwnTurn.others (h : OwnTurn s t) {other : ChannelId} (ho : other ≠ s.acting) :
    t.channel other = s.channel other := by
  obtain h | ⟨w, _, h⟩ := h <;> exact h.others other ho

theorem OwnTurn.load_of_outside (h : OwnTurn s t) (hi : (s.channel s.acting).inhibit = false)
    (ho : s.outsideBounds a = true) : t.load a = s.load a := by
  obtain h | ⟨w, hv, h⟩ := h
  · rw [h.same]; rfl
  · have hne : a ≠ (s.channel s.acting).da := by
      rintro rfl
      simp [State.channelViolates, hi, ho] at hv
    calc t.load a
      _ = (s.poke (s.channel s.acting).da w).load a := by rw [h.same]; rfl
      _ = s.load a := s.load_poke_of_ne w hne

/-- Settles O54: a channel's turn is a step of its own, and that stores at most one word and changes one channel. -/
theorem channelsLeaveTheProcessor : Obligations.ChannelsLeaveTheProcessor := by
  unfold Obligations.ChannelsLeaveTheProcessor
  intro s t ch r rest hscript hstep
  rw [step_of_channel hscript] at hstep
  have hturn := ownTurn_channelStep r { s.advance with acting := ch } t hstep
  refine ⟨?_, fun other ho => hturn.others ho, fun hi a ho => hturn.load_of_outside hi ho⟩
  rw [hturn.same]
  simp only [State.advance, hscript, turnsInside, List.tail_cons]

end Sys2Proof.Machine
end

section
/-! STC, CHT, SCH and HCH (R442-R446): the check that one channel is selected, a store on behalf of a channel, and the
hand-over of the special channel, each with what it does to the channel selected and to every other. -/

namespace Sys2Proof.Machine

variable {s t : State} {o : Operand} {ea a x : Addr} {w : Word} {ch : ChannelId} {ws : List Word} {inhibit : Bool}

/-! ## What is stored, carried over to a state that reads alike -/

theorem Stored.of_load_eq {u : State} (h : Stored s t a ws) (hu : ∀ b, u.load b = t.load b) : Stored s u a ws := by
  obtain ⟨hin, hout⟩ := h
  exact ⟨fun k hk => (hu _).trans (hin k hk), fun b hb => (hu b).trans (hout b hb)⟩

theorem stored_poke_of_load_eq {u : State} (hu : ∀ b, u.load b = s.load b) (v : Word) : Stored s (u.poke a v) a [v] := by
  obtain ⟨hin, hout⟩ := stored_poke u a v
  exact ⟨hin, fun b hb => (hout b hb).trans (hu b)⟩

theorem stored_poke_poke (s : State) (a : Addr) (v0 v1 : Word) :
    Stored s ((s.poke a v0).poke (a + 1) v1) a [v0, v1] :=
  stored_cons (by simp) (stored_poke _ _ _)

/-! ## A store on behalf of a channel (R83, R471) -/

theorem State.storeFor_of_allowed (v : Word) (h : s.channelViolates inhibit a = false) :
    s.storeFor ch inhibit a v = s.poke a v := by simp [State.storeFor, h]

theorem State.storeFor_of_violation (v : Word) (h : s.channelViolates inhibit a = true) :
    s.storeFor ch inhibit a v = s.handOver ch := by simp [State.storeFor, h]

theorem State.storeFor_channel (s : State) (ch : ChannelId) (inhibit : Bool) (a : Addr) (v : Word) :
    (s.storeFor ch inhibit a v).channel ch =
      { s.channel ch with handed := (s.channel ch).handed || s.channelViolates inhibit a } := by
  cases h : s.channelViolates inhibit a with
  | false => simp [s.storeFor_of_allowed v h]
  | true => simp [s.storeFor_of_violation v h]

theorem State.storeFor_channel_of_ne (s : State) (inhibit : Bool) (a : Addr) (v : Word) {other : ChannelId}
    (ho : other ≠ ch) : (s.storeFor ch inhibit a v).channel other = s.channel other := by
  cases h : s.channelViolates inhibit a with
  | false => rw [s.storeFor_of_allowed v h, State.poke_channel]
  | true => rw [s.storeFor_of_violation v h, State.handOver_channel_of_ne _ ho]

theorem State.storeFor_eq (s : State) (ch : ChannelId) (inhibit : Bool) (a : Addr) (v : Word) :
    s.storeFor ch inhibit a v =
      { s with
        mem := (s.storeFor ch inhibit a v).mem
        channels := (s.storeFor ch inhibit a v).channels } := by
  cases h : s.channelViolates inhibit a with
  | false => rw [s.storeFor_of_allowed v h]; rfl
  | true => rw [s.storeFor_of_violation v h]; rfl

/-- The bounds a channel's store is compared with are not changed by one. -/
theorem State.channelViolates_storeFor (s : State) (ch : ChannelId) (inhibit other : Bool) (a b : Addr) (v : Word) :
    (s.storeFor ch inhibit a v).channelViolates other b = s.channelViolates other b := by
  simp [State.channelViolates, State.outsideBounds]

/-! ## One channel selected (R442, R443) -/

theorem handSpecial_channel_of_one (s : State) (hone : selected w = [ch]) :
    (handSpecial w s).channel ch =
      { s.channel ch with handed := (s.channel ch).handed || decide (ch = .special) } := by
  rw [handSpecial_channel, hone]
  by_cases hch : ch = .special
  · simp [hch]
  · simp [hch]

theorem handSpecial_channel_of_ne (s : State) (hone : selected w = [ch]) {other : ChannelId} (ho : other ≠ ch) :
    (handSpecial w s).channel other = s.channel other := by
  rw [handSpecial_channel, hone, if_neg]
  rintro ⟨rfl, hmem⟩
  exact ho (List.mem_singleton.1 hmem)

theorem handSpecial_of_one (s : State) (hone : selected w = [ch]) :
    handSpecial w s = if ch = .special then s.setChannel ch { s.channel ch with handed := true } else s := by
  by_cases hch : ch = .special
  · subst hch; simp [handSpecial, hone, State.handOver]
  · rw [if_neg hch, handSpecial_of_other s hone hch]

/-- No channel or several selected: the model stops. -/
theorem withOneChannel_of_notOne {k : ChannelId → Result} (h : ∀ ch, selected w ≠ [ch]) :
    withOneChannel w s k = .refused .notOneChannel := by
  unfold withOneChannel
  split
  · next ch hone => exact absurd hone (h ch)
  · rfl

theorem withOneChannel_of_legal {k : ChannelId → Result} (hone : selected w = [ch])
    (hcar : s.problem = true → maskBit s.car ch = true) : withOneChannel w s k = k ch := by
  have hlegal : ¬ (s.problem && !maskBit s.car ch) = true := by
    cases hp : s.problem with
    | false => simp
    | true => simp [hcar hp]
  rw [withOneChannel, hone]
  exact if_neg hlegal

section
variable (hq : s.inside = []) (h : effectiveAddress .double o s = .ok ea) (hw : s.load ea = some w)
include hq h hw

theorem withSelectWord_of_notOne {k : Word → State → ChannelId → Result} (hnot : ∀ ch, selected w ≠ [ch]) :
    withSelectWord o s (fun w s => withOneChannel w s (k w s)) = .refused .notOneChannel := by
  rw [withSelectWord, withOperand_of_ok hq h hw, withOneChannel_of_notOne hnot]

theorem withSelectWord_of_legal {k : Word → State → ChannelId → Result} (hone : selected w = [ch])
    (hcar : s.problem = true → maskBit s.car ch = true) :
    withSelectWord o s (fun w s => withOneChannel w s (k w s)) = k w s ch := by
  rw [withSelectWord, withOperand_of_ok hq h hw, withOneChannel_of_legal hone hcar]

end

/-! ## STC (R443) -/

/-- Settles O49: after the check of the selection, STC is a case distinction on the channel's phase and its kind. -/
theorem startChannelByStc : Obligations.StartChannel := by
  unfold Obligations.StartChannel
  intro o s ea w hq h hw
  refine ⟨fun hnot => ?refused, fun ch hone hcar => ?legal⟩
  case refused =>
    have hrefused {k} := withSelectWord_of_notOne (k := k) hq h hw hnot
    simp only [List.forall_mem_cons, exec, execStc, execCht, execSch]
    exact ⟨hrefused, hrefused, hrefused, List.forall_mem_nil _⟩
  case legal =>
    have hstc : exec (.stc o) s =
        if (s.channel ch).busy then .next (handSpecial w s) else startChannel ch w s :=
      withSelectWord_of_legal hq h hw hone hcar
    refine ⟨fun hbusy => ?busy, fun hidle hch first hfirst => ?started, fun hidle hch => ?special⟩
    case busy => rw [hstc, if_pos hbusy, handSpecial_of_one s hone]
    case started =>
      rw [hstc, if_neg (by simp [hidle]), startChannel, if_neg hch, withWord_of_load hq hfirst]
      exact ⟨_, rfl, rfl, fun other ho => State.channel_setChannel_of_ne _ _ ho, State.channel_setChannel _ _ _⟩
    case special =>
      rw [hstc, if_neg (by simp [hidle]), startChannel, if_pos hch]
      exact ⟨_, rfl, rfl, fun other ho => State.channel_setChannel_of_ne _ _ ho, State.channel_setChannel _ _ _⟩

/-! ## CHT and SCH (R444, R445) -/

/-- The state CHT answers: the status word stored, PC skipping or not. -/
def afterCht (ch : ChannelId) (w v : Word) (available : Bool) (s : State) : State :=
  handSpecial w ((s.storeFor ch (s.inhibitFor w) (rightHalf w) v).skipIf available)

/-- The state SCH answers: the two words stored. -/
def afterSch (ch : ChannelId) (w v0 v1 : Word) (s : State) : State :=
  handSpecial w
    ((s.storeFor ch (s.inhibitFor w) (rightHalf w) v0).storeFor ch (s.inhibitFor w) (rightHalf w + 1) v1)

section
variable (hq : s.inside = []) (h : effectiveAddress .double o s = .ok ea) (hw : s.load ea = some w)
  (hone : selected w = [ch]) (hcar : s.problem = true → maskBit s.car ch = true)
include hq h hw hone hcar

/-- Whether CHT skips is what the channel answers of the state with its status word stored, which no store
makes less busy. -/
theorem exec_cht_of_legal :
    ∃ (v : Word) (available : Bool), exec (.cht o) s = .next (afterCht ch w v available s) ∧
      ((s.channel ch).busy = true → available = false) := by
  have hcht : exec (.cht o) s = _ := withSelectWord_of_legal hq h hw hone hcar
  rw [between_of_quiet hq] at hcht
  exact ⟨_, _, hcht, fun hbusy => by simp [channelAvailable, hbusy]⟩

theorem exec_sch_of_legal :
    exec (.sch o) s = .next (afterSch ch w (storedCounters ch s).1 (storedCounters ch s).2 s) := by
  have hsch : exec (.sch o) s = _ := withSelectWord_of_legal hq h hw hone hcar
  rw [hsch, between_of_quiet hq, between_of_quiet (by simpa using hq)]
  rfl

end

theorem afterCht_eq (ch : ChannelId) (w v : Word) (available : Bool) (s : State) :
    afterCht ch w v available s =
      { s with
        mem := (afterCht ch w v available s).mem
        channels := (afterCht ch w v available s).channels
        pc := if available then s.pc + 1 else s.pc } := by
  unfold afterCht
  rw [handSpecial_eq, State.storeFor_eq]
  cases available <;> rfl

theorem afterCht_load (ch : ChannelId) (w v : Word) (available : Bool) (s : State) (b : Addr) :
    (afterCht ch w v available s).load b = (s.storeFor ch (s.inhibitFor w) (rightHalf w) v).load b := by
  rw [afterCht, handSpecial_load, State.skipIf_load]

theorem afterSch_eq (ch : ChannelId) (w v0 v1 : Word) (s : State) :
    afterSch ch w v0 v1 s =
      { s with mem := (afterSch ch w v0 v1 s).mem, channels := (afterSch ch w v0 v1 s).channels } := by
  unfold afterSch
  rw [handSpecial_eq, State.storeFor_eq, State.storeFor_eq s]

theorem afterSch_load (ch : ChannelId) (w v0 v1 : Word) (s : State) (b : Addr) :
    (afterSch ch w v0 v1 s).load b =
      ((s.storeFor ch (s.inhibitFor w) (rightHalf w) v0).storeFor ch (s.inhibitFor w) (rightHalf w + 1) v1).load b :=
  handSpecial_load _ _ _

theorem skipIf_channel (s : State) (b : Bool) (ch : ChannelId) : (s.skipIf b).channel ch = s.channel ch := by
  simp [State.channel]

/-! ## HCH (R446) -/

theorem State.setChannel_channel (s : State) (ch : ChannelId) : s.setChannel ch (s.channel ch) = s := by
  simp [State.setChannel, State.channel]

/-- A channel asked to halt: an idle one ignores it (R446). -/
def Channel.askedToHalt (c : Channel) : Channel := { c with haltRequest := c.haltRequest || c.busy }

theorem requestHalt_eq (ch : ChannelId) (s : State) :
    requestHalt ch s = s.setChannel ch (s.channel ch).askedToHalt := by
  unfold requestHalt Channel.askedToHalt
  cases hbusy : (s.channel ch).busy with
  | true => simp
  | false => simpa using (s.setChannel_channel ch).symm

/-- HCH's channels: every selected busy one asked to halt, and the special one handed over besides. -/
theorem handSpecial_requestHalts_channel (w : Word) (s : State) (ch : ChannelId) :
    (handSpecial w (forChannels requestHalt (selected w) s)).channel ch =
      if position w (1 + (channelIndex ch).val) = true then
        { s.channel ch with
          haltRequest := (s.channel ch).haltRequest || (s.channel ch).busy
          handed := (s.channel ch).handed || decide (ch = .special) }
      else s.channel ch := by
  rw [handSpecial_channel, forChannels_channel Channel.askedToHalt requestHalt_eq _ _ (selected_nodup w)]
  by_cases hsel : ch ∈ selected w
  · rw [if_pos hsel, if_pos ((mem_selected w ch).1 hsel)]
    by_cases hch : ch = .special
    · subst hch; simp [hsel, Channel.askedToHalt]
    · simp [hch, Channel.askedToHalt]
  · rw [if_neg hsel, if_neg (fun hpos => hsel ((mem_selected w ch).2 hpos)), if_neg]
    rintro ⟨rfl, hspecial⟩
    exact hsel hspecial

theorem exec_hch_of_legal (hq : s.inside = []) (h : effectiveAddress .double o s = .ok ea) (hw : s.load ea = some w)
    (hcar : s.problem = true → ∀ ch ∈ selected w, maskBit s.car ch = true) :
    exec (.hch o) s = .next (handSpecial w (forChannels requestHalt (selected w) s)) := by
  have hlegal : ¬ (s.problem && (selected w).any fun ch => !maskBit s.car ch) = true := by
    simp only [Bool.and_eq_true, List.any_eq_true, Bool.not_eq_true', not_and, not_exists]
    intro hp ch hmem hbit
    simp [hcar hp ch hmem] at hbit
  show execHch o s = _
  rw [execHch, withSelectWord, withOperand_of_ok hq h hw, if_neg hlegal]

/-- Settles O50: CHT stores once for its channel, SCH twice, each store dropped or kept on its own; HCH goes over the
selected channels. -/
theorem testStoreAndHaltChannel : Obligations.TestStoreAndHaltChannel := by
  unfold Obligations.TestStoreAndHaltChannel
  intro o s ea w hq h hw
  refine ⟨?one, fun hcar => ?hch⟩
  case hch =>
    refine ⟨_, exec_hch_of_legal hq h hw hcar, ?_, handSpecial_requestHalts_channel w s⟩
    rw [handSpecial_eq, forChannels_eq fun ch s => by rw [requestHalt_eq]; rfl]
  case one =>
    intro ch inhibit bad0 bad1 hone hcar hinhibit hbad0 hbad1
    have hinhibit : s.inhibitFor w = inhibit := hinhibit.symm
    refine ⟨?cht, ?sch⟩
    case cht =>
      obtain ⟨v, available, hcht, hskip⟩ := exec_cht_of_legal hq h hw hone hcar
      have heq := afterCht_eq ch w v available s
      have hpc : (afterCht ch w v available s).pc = if available then s.pc + 1 else s.pc := by rw [heq]
      have hload := afterCht_load ch w v available s
      rw [hinhibit] at hload
      refine ⟨_, v, hcht, ?_, ?_, fun hbusy => ?_, fun hok => ?_, fun hbad b => ?_, fun other ho => ?_, ?_⟩
      · rw [heq]
      · rw [hpc]; cases available <;> simp
      · rw [hpc, hskip hbusy]; rfl
      · rw [s.storeFor_of_allowed v (hbad0.symm.trans hok)] at hload
        exact (stored_poke s _ v).of_load_eq hload
      · rw [hload, s.storeFor_of_violation v (hbad0.symm.trans hbad), State.handOver_load]
      · rw [afterCht, handSpecial_channel_of_ne _ hone ho, skipIf_channel, State.storeFor_channel_of_ne _ _ _ _ ho]
      · rw [afterCht, handSpecial_channel_of_one _ hone, skipIf_channel, State.storeFor_channel, hinhibit, hbad0]
    case sch =>
      obtain ⟨v0, v1, hv, hsch⟩ :
          ∃ v0 v1, storedCounters ch s = (v0, v1) ∧ exec (.sch o) s = .next (afterSch ch w v0 v1 s) :=
        ⟨_, _, rfl, exec_sch_of_legal hq h hw hone hcar⟩
      have hload := afterSch_load ch w v0 v1 s
      have hbad1' := s.channelViolates_storeFor ch inhibit inhibit (rightHalf w) (rightHalf w + 1) v0
      rw [hinhibit] at hload
      rw [← hbad1] at hbad1'
      refine ⟨_, v0, v1, hsch, ?_, fun hch => ?_, fun hok0 hok1 => ?_, fun hok0 hbad => ?_, fun hbad hok1 => ?_,
        fun hviol0 hviol1 b => ?_, fun other ho => ?_, ?_⟩
      · rw [afterSch_eq]
      · rw [storedCounters, if_neg hch] at hv
        exact (Prod.mk.inj hv).imp Eq.symm Eq.symm
      · rw [State.storeFor_of_allowed v1 (hbad1'.trans hok1), s.storeFor_of_allowed v0 (hbad0.symm.trans hok0)] at hload
        exact (stored_poke_poke s _ v0 v1).of_load_eq hload
      · rw [State.storeFor_of_violation v1 (hbad1'.trans hbad), s.storeFor_of_allowed v0 (hbad0.symm.trans hok0)] at hload
        exact (stored_poke s _ v0).of_load_eq fun b => (hload b).trans (State.handOver_load _ _ _)
      · rw [State.storeFor_of_allowed v1 (hbad1'.trans hok1), s.storeFor_of_violation v0 (hbad0.symm.trans hbad)] at hload
        exact (stored_poke_of_load_eq (s.handOver_load ch) v1).of_load_eq hload
      · rw [hload, State.storeFor_of_violation v1 (hbad1'.trans hviol1),
          s.storeFor_of_violation v0 (hbad0.symm.trans hviol0), State.handOver_load, State.handOver_load]
      · rw [afterSch, handSpecial_channel_of_ne _ hone ho, State.storeFor_channel_of_ne _ _ _ _ ho,
          State.storeFor_channel_of_ne _ _ _ _ ho]
      · rw [afterSch, handSpecial_channel_of_one _ hone, State.storeFor_channel, State.storeFor_channel, hinhibit,
          hbad1', hbad0]

end Sys2Proof.Machine
end

section
/-! SQXL, SXAR, SQXT and SXAT (R420, R423-R426): the shifts as multiplications and divisions by a power of two, for
every count of eighteen bits, and what the two tests leave in the registers. -/

namespace Sys2Proof.Machine

variable {s : State} {o : Operand} {ea x : Addr} {n : Nat}

/-! ## The shifts as arithmetic -/

theorem mul_two_pow_mod_of_le {m : Nat} (v : Nat) (h : m ≤ n) : v * 2 ^ n % 2 ^ m = 0 :=
  Nat.mod_eq_zero_of_dvd (Dvd.dvd.mul_left (pow_dvd_pow 2 h) v)

theorem shiftIntoIndex_mq (x : Addr) (mq : Word) (n : Nat) :
    (shiftIntoIndex x mq n).2.toNat = mq.toNat * 2 ^ n % 2 ^ 36 := by
  unfold shiftIntoIndex
  split
  · next hn => exact (mul_two_pow_mod_of_le _ (by omega)).symm
  · have hsplit : (x.toNat * 2 ^ 36 + mq.toNat) * 2 ^ n = 2 ^ 36 * (x.toNat * 2 ^ n) + mq.toNat * 2 ^ n := by ring
    rw [BitVec.toNat_ofNat, toNat_append_add, hsplit, Nat.mul_add_mod]

theorem shiftIntoIndex_index (x : Addr) (mq : Word) (n : Nat) :
    (shiftIntoIndex x mq n).1.toNat = (x.toNat * 2 ^ 36 + mq.toNat) * 2 ^ n / 2 ^ 36 % 2 ^ 18 := by
  unfold shiftIntoIndex
  split
  · next hn =>
    obtain ⟨k, rfl⟩ := Nat.exists_eq_add_of_le hn
    have hsplit (v : Nat) : v * 2 ^ (54 + k) = 2 ^ 36 * (v * 2 ^ (18 + k)) := by ring
    rw [hsplit, Nat.mul_div_cancel_left _ (by norm_num), mul_two_pow_mod_of_le _ (by omega)]
    rfl
  · rw [BitVec.toNat_ofNat, toNat_append_add]

theorem shiftLogical_toNat (w : Word) (n : Nat) : (shiftLogical w n).toNat = w.toNat * 2 ^ n % 2 ^ 36 := by
  unfold shiftLogical
  split
  · next hn => exact (mul_two_pow_mod_of_le _ hn).symm
  · rw [BitVec.toNat_shiftLeft, Nat.shiftLeft_eq]

/-- An index register shifted right, all of it lost from eighteen places on. -/
theorem shiftedRight_toNat (x : Addr) (n : Nat) :
    (if 18 ≤ n then 0 else x >>> n).toNat = x.toNat / 2 ^ n := by
  split
  · next hn =>
    have hlt : x.toNat < 2 ^ n := x.isLt.trans_le (Nat.pow_le_pow_right (by norm_num) hn)
    exact (Nat.div_eq_of_lt hlt).symm
  · rw [BitVec.toNat_ushiftRight, Nat.shiftRight_eq_div_pow]

theorem State.skipIf_decide_pc (s : State) (p : Prop) [Decidable p] :
    (s.skipIf (decide p)).pc = if p then s.pc + 1 else s.pc := by
  by_cases hp : p
  · rw [if_pos hp, decide_eq_true hp]; rfl
  · rw [if_neg hp, decide_eq_false hp]; rfl

theorem State.skipIf_eq (s : State) (b : Bool) : s.skipIf b = { s with pc := (s.skipIf b).pc } := by
  cases b <;> rfl

theorem State.skipIf_x (s : State) (b : Bool) (j : Nat) : (s.skipIf b).x j = s.x j := by simp [State.x]

/-! ## The four instructions (R423-R426) -/

section
variable (hq : s.inside = []) (h : effectiveAddress .single o s = .ok ea)
include hq h

theorem execSqxl_of_ok :
    execSqxl o s =
      .next ({ s with mq := (shiftIntoIndex (tagged o s) s.mq ea.toNat).2 }.setX o.t1.toNat
        (shiftIntoIndex (tagged o s) s.mq ea.toNat).1) := by rw [execSqxl, withAddress_of_ok hq h]

theorem execSxar_of_ok :
    execSxar o s =
      .next { s with
        ac := Acc.make false false false (BitVec.ofNat 35 ((tagged o s).toNat % 2 ^ min ea.toNat 18)) } := by
  rw [execSxar, withAddress_of_ok hq h]

theorem execSqxt_of_ok :
    execSqxt o s = if o.t1 = 1 then .refused .indexOneAsCount else .next (shiftMqAndTest o ea s) := by
  rw [execSqxt, withAddress_of_ok hq h]

theorem execSxat_of_ok :
    execSxat o s = if o.t1 = 1 then .refused .indexOneAsCount else .next (shiftIndexAndTest o ea s) := by
  rw [execSxat, withAddress_of_ok hq h]

end

theorem shiftMqAndTest_eq (o : Operand) (c : Addr) (s : State) :
    shiftMqAndTest o c s =
      { s with
        mq := (shiftIntoIndex 0 s.mq (min c.toNat (tagged o s).toNat)).2
        xr := (shiftMqAndTest o c s).xr
        pc := (shiftMqAndTest o c s).pc } := by
  unfold shiftMqAndTest
  rw [State.skipIf_eq, State.setX_eq, State.setX_eq _ 1]

theorem shiftMqAndTest_pc (o : Operand) (c : Addr) (s : State) :
    (shiftMqAndTest o c s).pc = if c.toNat < (tagged o s).toNat then s.pc + 1 else s.pc := by
  rw [shiftMqAndTest, State.skipIf_decide_pc, State.setX_pc, State.setX_pc]
  rfl

theorem shiftMqAndTest_x (o : Operand) (c : Addr) (s : State) (j : Nat) :
    (shiftMqAndTest o c s).x j =
      if j = o.t1.toNat ∧ j ≠ 0 then tagged o s - c
      else if j = 1 then (shiftIntoIndex 0 s.mq (min c.toNat (tagged o s).toNat)).1 else s.x j := by
  rw [shiftMqAndTest, State.skipIf_x, State.x_setX (tag_le _), State.x_setX (by decide)]
  refine if_congr Iff.rfl rfl (if_congr ⟨And.left, fun hj => ⟨hj, by omega⟩⟩ rfl rfl)

theorem shiftIndexAndTest_eq (o : Operand) (c : Addr) (s : State) :
    shiftIndexAndTest o c s =
      { s with
        ac := (shiftIndexAndTest o c s).ac
        xr := (shiftIndexAndTest o c s).xr
        pc := (shiftIndexAndTest o c s).pc } := by
  unfold shiftIndexAndTest
  rw [State.skipIf_eq, State.setX_eq]

theorem shiftIndexAndTest_pc (o : Operand) (c : Addr) (s : State) :
    (shiftIndexAndTest o c s).pc = if c.toNat < (tagged o s).toNat then s.pc + 1 else s.pc := by
  rw [shiftIndexAndTest, State.skipIf_decide_pc, State.setX_pc]
  rfl

theorem shiftIndexAndTest_x (o : Operand) (c : Addr) (s : State) (j : Nat) :
    (shiftIndexAndTest o c s).x j = if j = o.t1.toNat ∧ j ≠ 0 then tagged o s - c else s.x j := by
  rw [shiftIndexAndTest, State.skipIf_x, State.x_setX (tag_le _)]
  rfl

theorem joinHalves_zero_toNat (a : Addr) : (joinHalves 0 a).toNat = a.toNat := by simp [joinHalves_toNat]

/-- SXAT's accumulator: its logical word shifted, and XR1 put into the places that are free. -/
theorem shiftIndexAndTest_ac (o : Operand) (c : Addr) (s : State) :
    ∃ v : Word, (shiftIndexAndTest o c s).ac = s.ac.withLogical v ∧
      v.toNat = s.ac.logical.toNat * 2 ^ min c.toNat (tagged o s).toNat % 2 ^ 36 |||
        if c.toNat < (tagged o s).toNat then (s.x 1).toNat else (s.x 1).toNat / 2 ^ (c.toNat - (tagged o s).toNat) := by
  refine ⟨_, by rw [shiftIndexAndTest, State.skipIf_ac, State.setX_ac], ?_⟩
  rw [BitVec.toNat_or, shiftLogical_toNat, joinHalves_zero_toNat, apply_ite BitVec.toNat, shiftedRight_toNat]
  rfl

/-- Settles O47: the four are one shift each, and the last two a subtraction and a test besides. -/
theorem indexShifts : Obligations.IndexShifts := by
  unfold Obligations.IndexShifts
  intro o s ea x hq h hx
  have htagged : tagged o s = x := hx.symm
  refine ⟨?sqxl, ?sxar, fun ht => ?refused, fun ht n hn => ⟨?sqxt, ?sxat⟩⟩
  case sqxl =>
    refine ⟨_, execSqxl_of_ok hq h, ?_, ?_, fun j hj => ?_⟩
    · rw [State.setX_eq]
    · rw [State.setX_mq, shiftIntoIndex_mq]
    · rw [State.x_setX (tag_le _), apply_ite BitVec.toNat, shiftIntoIndex_index, htagged]
      rfl
  case sxar =>
    refine ⟨_, execSxar_of_ok hq h, rfl, rfl, ?_⟩
    have hlt : x.toNat % 2 ^ min ea.toNat 18 < 2 ^ 35 := (Nat.mod_le _ _).trans_lt (by omega)
    rw [Acc.make_toNat, htagged, BitVec.toNat_ofNat, Nat.mod_eq_of_lt hlt]
    simp
  case refused =>
    exact ⟨(execSqxt_of_ok hq h).trans (if_pos ht), (execSxat_of_ok hq h).trans (if_pos ht)⟩
  case sqxt =>
    have heq := shiftMqAndTest_eq o ea s
    have hxr := shiftMqAndTest_x o ea s
    rw [htagged, ← hn] at heq hxr
    have ht1 : o.t1.toNat ≠ 1 := fun he => ht (BitVec.eq_of_toNat_eq he)
    have hmq : (shiftMqAndTest o ea s).mq = (shiftIntoIndex 0 s.mq n).2 := by rw [heq]
    refine ⟨_, (execSqxt_of_ok hq h).trans (if_neg ht), ?_, ?_, ?_, fun h0 => ?_, fun j hj1 hjt => ?_, ?_⟩
    · rw [heq]
    · rw [hmq, shiftIntoIndex_mq]
    · rw [hxr, if_neg (by omega), if_pos rfl, shiftIntoIndex_index]
      simp
    · rw [hxr, if_pos ⟨rfl, fun he => h0 (BitVec.eq_of_toNat_eq he)⟩]
    · rw [hxr, if_neg (by tauto), if_neg hj1]
    · rw [shiftMqAndTest_pc, htagged]
  case sxat =>
    have hxr := shiftIndexAndTest_x o ea s
    obtain ⟨v, hac, hv⟩ := shiftIndexAndTest_ac o ea s
    rw [htagged] at hxr hv
    rw [← hn] at hv
    refine ⟨_, (execSxat_of_ok hq h).trans (if_neg ht), ?_, ?_, ?_, ?_, fun h0 => ?_, fun j hjt => ?_, ?_⟩
    · rw [shiftIndexAndTest_eq]
    · rw [hac, Acc.withLogical_s]
    · rw [hac, Acc.withLogical_q]
    · rw [hac, Acc.withLogical_logical, hv]
    · rw [hxr, if_pos ⟨rfl, fun he => h0 (BitVec.eq_of_toNat_eq he)⟩]
    · rw [hxr, if_neg (by tauto)]
    · rw [shiftIndexAndTest_pc, htagged]

end Sys2Proof.Machine
end

section
/-! FLT and FIX (R421, R422, D25): a normalized number keeps the leading 27 digits of its operand, and the value of a
floating-point word says what FIX makes of it. -/

namespace Sys2Proof.Machine

variable {s : State} {o : Operand} {ea : Addr} {w : Word} {a : Acc} {k m : Nat}

/-! ## Accumulators below 2^35, their words and values -/

theorem Acc.toNat_parts_of_lt (h : a.m.toNat < 2 ^ 35) : a.q = false ∧ a.p = false ∧ a.mag.toNat = a.m.toNat := by
  have hm := a.m_toNat
  have hq : a.q.toNat = 0 := by omega
  have hp : a.p.toNat = 0 := by omega
  rw [hq, hp] at hm
  exact ⟨Bool.toNat_eq_zero.1 hq, Bool.toNat_eq_zero.1 hp, by omega⟩

theorem Acc.signOf_signedWord (a : Acc) : signOf a.signedWord = a.s := signOf_signed _ _

theorem Acc.magnitude_signedWord (a : Acc) : magnitude a.signedWord = a.mag := magnitude_signed _ _

theorem Acc.eq_ofSigned (hs : a.s = signOf w) (hm : a.m.toNat = (magnitude w).toNat) : a = Acc.ofSigned w := by
  have hsame : a.m = (Acc.ofSigned w).m := by
    apply BitVec.eq_of_toNat_eq
    rw [hm, Acc.ofSigned, Acc.make_toNat]
    simp
  cases a
  exact congr (congrArg Acc.mk hs) hsame

theorem scaledValue_eq (w : Word) :
    scaledValue w = (magnitude w).toNat % 2 ^ 27 * 2 ^ ((magnitude w).toNat / 2 ^ 27) := by
  rw [scaledValue, unpackWord_fr, unpackWord_ch, Int.toNat_natCast]

theorem accOfParts_toNat_of_lt (b : Bool) {c f : Nat} (hc : c < 256) (hf : f < 2 ^ 27) :
    (accOfParts b c f).m.toNat = c * 2 ^ 27 + f := by
  rw [accOfParts_m_toNat]
  omega

theorem accOfParts_mag_of_lt (b : Bool) {c f : Nat} (hc : c < 256) (hf : f < 2 ^ 27) :
    (accOfParts b c f).q = false ∧ (accOfParts b c f).p = false ∧ (accOfParts b c f).mag.toNat = c * 2 ^ 27 + f := by
  have hm := accOfParts_toNat_of_lt b hc hf
  rw [← hm]
  exact Acc.toNat_parts_of_lt (by omega)

theorem scaledValue_accOfParts (b : Bool) {c f : Nat} (hc : c < 256) (hf : f < 2 ^ 27) :
    scaledValue (accOfParts b c f).signedWord = f * 2 ^ c := by
  obtain ⟨-, -, hmag⟩ := accOfParts_mag_of_lt b hc hf
  rw [scaledValue_eq, Acc.magnitude_signedWord, hmag, show (c * 2 ^ 27 + f) % 2 ^ 27 = f by omega,
    show (c * 2 ^ 27 + f) / 2 ^ 27 = c by omega]

/-! ## FLT: the leading digits -/

theorem bitLength_eq (hlo : 2 ^ k ≤ m) (hhi : m < 2 ^ (k + 1)) : bitLength m = k + 1 := by
  have hm : m ≠ 0 := ((Nat.two_pow_pos k).trans_le hlo).ne'
  rw [bitLength, if_neg hm, (Nat.log2_eq_iff hm).2 ⟨hlo, hhi⟩]

/-- A number of `k + 1` binary digits has a fraction between one half and one. -/
theorem fraction_bounds (hlo : 2 ^ k ≤ m) (hhi : m < 2 ^ (k + 1)) :
    2 ^ 26 ≤ m * 2 ^ 26 / 2 ^ k ∧ m * 2 ^ 26 / 2 ^ k < 2 ^ 27 := by
  constructor
  · rw [Nat.le_div_iff_mul_le (by positivity), Nat.mul_comm]
    exact Nat.mul_le_mul_right _ hlo
  · rw [Nat.div_lt_iff_lt_mul (by positivity)]
    calc m * 2 ^ 26 < 2 ^ (k + 1) * 2 ^ 26 := Nat.mul_lt_mul_of_pos_right hhi (by norm_num)
      _ = 2 ^ 27 * 2 ^ k := by ring

theorem flt_of_zero (h : magnitude w = 0) : flt w = accOfParts (signOf w) (0 : Nat) 0 := by simp [flt, h]

/-- FLT of a number of `k + 1` binary digits: they are shifted until the first of them is the fraction's first. -/
theorem flt_eq (hlo : 2 ^ k ≤ (magnitude w).toNat) (hhi : (magnitude w).toNat < 2 ^ (k + 1)) :
    flt w = accOfParts (signOf w) (129 + k : Nat) ((magnitude w).toNat * 2 ^ 26 / 2 ^ k) := by
  have hm : (magnitude w).toNat ≠ 0 := ((Nat.two_pow_pos k).trans_le hlo).ne'
  have hfraction :
      (if k + 1 ≤ 27 then (magnitude w).toNat * 2 ^ (27 - (k + 1)) else (magnitude w).toNat / 2 ^ (k + 1 - 27)) =
        (magnitude w).toNat * 2 ^ 26 / 2 ^ k := by
    split
    · next hk =>
      rw [Nat.mul_div_assoc _ (pow_dvd_pow 2 (by omega)), Nat.pow_div (by omega) (by norm_num),
        show 27 - (k + 1) = 26 - k by omega]
    · next hk =>
      obtain ⟨j, rfl⟩ := Nat.exists_eq_add_of_le (show 26 ≤ k by omega)
      rw [show 26 + j + 1 - 27 = j by omega, pow_add, Nat.mul_comm (2 ^ 26), Nat.mul_div_mul_right _ _ (by norm_num)]
  rw [flt, if_neg hm, bitLength_eq hlo hhi, hfraction]
  congr 1
  push_cast
  ring

/-- A number that is not zero has some number `k + 1` of binary digits, at most 35. -/
theorem exists_digits (h : magnitude w ≠ 0) :
    ∃ k, k < 35 ∧ 2 ^ k ≤ (magnitude w).toNat ∧ (magnitude w).toNat < 2 ^ (k + 1) := by
  have hm : (magnitude w).toNat ≠ 0 := fun he => h (BitVec.eq_of_toNat_eq he)
  obtain ⟨hlo, hhi⟩ := (Nat.log2_eq_iff hm).1 rfl
  exact ⟨_, (Nat.pow_lt_pow_iff_right (by norm_num)).1 (hlo.trans_lt (magnitude w).isLt), hlo, hhi⟩

/-- The value of FLT's result: the operand's, but for the digits past the twenty-seventh. -/
theorem scaledValue_flt (hlo : 2 ^ k ≤ (magnitude w).toNat) (hhi : (magnitude w).toNat < 2 ^ (k + 1)) (hk : k < 35) :
    scaledValue (flt w).signedWord = (magnitude w).toNat * 2 ^ 26 / 2 ^ k * 2 ^ (129 + k) := by
  rw [flt_eq hlo hhi, scaledValue_accOfParts _ (by omega) (fraction_bounds hlo hhi).2]

/-- Below 2^27 FLT is exact. -/
theorem scaledValue_flt_of_lt (h : (magnitude w).toNat < 2 ^ 27) :
    scaledValue (flt w).signedWord = (magnitude w).toNat * 2 ^ 155 := by
  by_cases hzero : magnitude w = 0
  · rw [flt_of_zero hzero, scaledValue_accOfParts _ (by norm_num) (by norm_num), hzero]
    rfl
  · obtain ⟨k, hk, hlo, hhi⟩ := exists_digits hzero
    have hk26 : k < 27 := (Nat.pow_lt_pow_iff_right (by norm_num)).1 (hlo.trans_lt h)
    have hdvd : 2 ^ k ∣ (magnitude w).toNat * 2 ^ 26 := Dvd.dvd.mul_left (pow_dvd_pow 2 (by omega)) _
    calc scaledValue (flt w).signedWord
      _ = (magnitude w).toNat * 2 ^ 26 / 2 ^ k * 2 ^ k * 2 ^ 129 := by rw [scaledValue_flt hlo hhi hk]; ring
      _ = (magnitude w).toNat * 2 ^ 155 := by rw [Nat.div_mul_cancel hdvd]; ring

/-- With `27 + j` digits FLT drops the last `j`. -/
theorem scaledValue_flt_of_digits {j : Nat} (hlo : 2 ^ (26 + j) ≤ (magnitude w).toNat)
    (hhi : (magnitude w).toNat < 2 ^ (27 + j)) :
    scaledValue (flt w).signedWord = (magnitude w).toNat / 2 ^ j * 2 ^ j * 2 ^ 155 := by
  have hj : 26 + j < 35 := (Nat.pow_lt_pow_iff_right (by norm_num)).1 (hlo.trans_lt (magnitude w).isLt)
  have hhi' : (magnitude w).toNat < 2 ^ (26 + j + 1) := by rwa [show 26 + j + 1 = 27 + j by omega]
  have hdiv : (magnitude w).toNat * 2 ^ 26 / 2 ^ (26 + j) = (magnitude w).toNat / 2 ^ j := by
    rw [pow_add, Nat.mul_comm (2 ^ 26), Nat.mul_div_mul_right _ _ (by norm_num)]
  rw [scaledValue_flt hlo hhi' hj, hdiv]
  ring

theorem flt_mag_of_zero (h : magnitude w = 0) : (flt w).mag = 0 := by
  obtain ⟨-, -, hmag⟩ := accOfParts_mag_of_lt (signOf w) (show 0 < 256 by norm_num) (show 0 < 2 ^ 27 by norm_num)
  rw [flt_of_zero h]
  exact BitVec.eq_of_toNat_eq hmag

theorem flt_normalized (h : magnitude w ≠ 0) : 2 ^ 26 ≤ (flt w).mag.toNat % 2 ^ 27 := by
  obtain ⟨k, hk, hlo, hhi⟩ := exists_digits h
  obtain ⟨hlow, hhigh⟩ := fraction_bounds hlo hhi
  obtain ⟨-, -, hmag⟩ := accOfParts_mag_of_lt (signOf w) (show 129 + k < 256 by omega) hhigh
  rw [flt_eq hlo hhi, hmag]
  omega

theorem flt_above (w : Word) : (flt w).q = false ∧ (flt w).p = false := by
  by_cases hzero : magnitude w = 0
  · obtain ⟨hq, hp, -⟩ := accOfParts_mag_of_lt (signOf w) (show 0 < 256 by norm_num) (show 0 < 2 ^ 27 by norm_num)
    rw [flt_of_zero hzero]
    exact ⟨hq, hp⟩
  · obtain ⟨k, hk, hlo, hhi⟩ := exists_digits hzero
    obtain ⟨-, hhigh⟩ := fraction_bounds hlo hhi
    obtain ⟨hq, hp, -⟩ := accOfParts_mag_of_lt (signOf w) (show 129 + k < 256 by omega) hhigh
    rw [flt_eq hlo hhi]
    exact ⟨hq, hp⟩

theorem flt_s (w : Word) : (flt w).s = signOf w := by
  unfold flt
  dsimp only
  split <;> rfl

/-! ## FIX: the value split at the binary point -/

theorem fix_of_lt (ac : Acc) (mq : Word) (h : scaledValue w < 2 ^ 35 * 2 ^ 155) :
    fix w ac mq = { ac := fixInteger w, mq := fixFraction w, sp := noSpill, divCheck := false } :=
  fix_of_fits (decide_eq_false (not_le.2 h))

theorem fixInteger_toNat (h : scaledValue w < 2 ^ 35 * 2 ^ 155) :
    (fixInteger w).m.toNat = scaledValue w / 2 ^ 155 := by
  have hlt : scaledValue w / 2 ^ 155 < 2 ^ 35 := (Nat.div_lt_iff_lt_mul (by norm_num)).2 h
  exact Nat.mod_eq_of_lt (hlt.trans (by norm_num))

theorem fixFraction_magnitude_toNat (w : Word) :
    (magnitude (fixFraction w)).toNat = scaledValue w % 2 ^ 155 * 2 ^ 35 / 2 ^ 155 := by
  have hlt : scaledValue w % 2 ^ 155 * 2 ^ 35 / 2 ^ 155 < 2 ^ 35 := by
    rw [Nat.div_lt_iff_lt_mul (by norm_num), Nat.mul_comm]
    exact Nat.mul_lt_mul_of_pos_left (Nat.mod_lt _ (by norm_num)) (by norm_num)
  rw [fixFraction, magnitude_signed, BitVec.toNat_ofNat, Nat.mod_eq_of_lt hlt]

theorem fixFraction_of_whole (h : scaledValue w % 2 ^ 155 = 0) : fixFraction w = signed (signOf w) 0 := by
  rw [fixFraction, h]
  simp

theorem execFlt_of_load (hq : s.inside = []) (h : effectiveAddress .double o s = .ok ea) (hw : s.load ea = some w) :
    execFlt o s = .next { s with ac := flt w } := by rw [execFlt, withOperand_of_ok hq h hw, numerics_flt]

theorem execFix_of_load (hq : s.inside = []) (h : effectiveAddress .double o s = .ok ea) (hw : s.load ea = some w)
    (hfits : scaledValue w < 2 ^ 35 * 2 ^ 155) :
    execFix o s = .next { s with ac := fixInteger w, mq := fixFraction w } := by
  rw [execFix, withOperand_of_ok hq h hw, numerics_fix, fix_of_lt _ _ hfits]
  rfl

/-! ## Round trips -/

/-- FIX of FLT: nothing was dropped, so the value is the number with no fraction. -/
theorem fix_flt (ac : Acc) (mq : Word) (h : (magnitude w).toNat < 2 ^ 27) :
    (fix (flt w).signedWord ac mq).ac = Acc.ofSigned w ∧
      (fix (flt w).signedWord ac mq).mq = signed (signOf w) 0 := by
  have hvalue := scaledValue_flt_of_lt h
  have hfits : scaledValue (flt w).signedWord < 2 ^ 35 * 2 ^ 155 := by
    rw [hvalue]
    exact Nat.mul_lt_mul_of_pos_right (magnitude w).isLt (by norm_num)
  have hsign : signOf (flt w).signedWord = signOf w := (Acc.signOf_signedWord _).trans (flt_s w)
  rw [fix_of_lt ac mq hfits]
  refine ⟨Acc.eq_ofSigned hsign ?_, ?_⟩
  · rw [fixInteger_toNat hfits, hvalue, Nat.mul_div_cancel _ (by norm_num)]
  · rw [fixFraction_of_whole (by rw [hvalue, Nat.mul_mod_left]), hsign]

/-- A normalized whole number's characteristic tells how many digits it has. -/
theorem exists_digits_of_whole {n f c : Nat} (hn : n ≠ 0) (hlo : 2 ^ 26 ≤ f) (hhi : f < 2 ^ 27)
    (h : n * 2 ^ 155 = f * 2 ^ c) :
    ∃ k, c = 129 + k ∧ 2 ^ k ≤ n ∧ n < 2 ^ (k + 1) ∧ n * 2 ^ 26 / 2 ^ k = f := by
  have hc : 155 < 27 + c := by
    refine (Nat.pow_lt_pow_iff_right (by norm_num : 1 < 2)).1 ?_
    calc 2 ^ 155 ≤ n * 2 ^ 155 := Nat.le_mul_of_pos_left _ (Nat.pos_of_ne_zero hn)
      _ = f * 2 ^ c := h
      _ < 2 ^ 27 * 2 ^ c := Nat.mul_lt_mul_of_pos_right hhi (by positivity)
      _ = 2 ^ (27 + c) := (pow_add _ _ _).symm
  obtain ⟨k, rfl⟩ := Nat.exists_eq_add_of_le (show 129 ≤ c by omega)
  have hshort : n * 2 ^ 26 = f * 2 ^ k := by
    refine Nat.eq_of_mul_eq_mul_right (show 0 < 2 ^ 129 by norm_num) ?_
    calc n * 2 ^ 26 * 2 ^ 129 = n * 2 ^ 155 := by ring
      _ = f * 2 ^ k * 2 ^ 129 := by rw [h]; ring
  refine ⟨k, rfl, ?_, ?_, ?_⟩
  · refine Nat.le_of_mul_le_mul_right ?_ (show 0 < 2 ^ 26 by norm_num)
    rw [hshort, Nat.mul_comm]
    exact Nat.mul_le_mul_right _ hlo
  · refine Nat.lt_of_mul_lt_mul_right (a := 2 ^ 26) ?_
    calc n * 2 ^ 26 = f * 2 ^ k := hshort
      _ < 2 ^ 27 * 2 ^ k := Nat.mul_lt_mul_of_pos_right hhi (by positivity)
      _ = 2 ^ (k + 1) * 2 ^ 26 := by ring
  · rw [hshort, Nat.mul_div_cancel _ (by positivity)]

theorem fixInteger_magnitude_toNat (h : scaledValue w < 2 ^ 35 * 2 ^ 155) :
    (magnitude (fixInteger w).signedWord).toNat = scaledValue w / 2 ^ 155 := by
  have hm := fixInteger_toNat h
  have hlt : (fixInteger w).m.toNat < 2 ^ 35 := by rw [hm]; exact (Nat.div_lt_iff_lt_mul (by norm_num)).2 h
  obtain ⟨-, -, hmag⟩ := Acc.toNat_parts_of_lt hlt
  rw [Acc.magnitude_signedWord, hmag, hm]

/-- FLT of FIX: the digits of a normalized whole number are found again, and its characteristic with them. -/
theorem flt_fixInteger (hfits : scaledValue w < 2 ^ 35 * 2 ^ 155) (hwhole : scaledValue w % 2 ^ 155 = 0)
    (hnorm : 2 ^ 26 ≤ (magnitude w).toNat % 2 ^ 27 ∨ magnitude w = 0) :
    flt (fixInteger w).signedWord = Acc.ofSigned w := by
  have hsign : signOf (fixInteger w).signedWord = signOf w := Acc.signOf_signedWord _
  have hn := fixInteger_magnitude_toNat hfits
  have hlt := (magnitude w).isLt
  rcases hnorm with hnorm | hzero
  · have hvalue : (magnitude (fixInteger w).signedWord).toNat * 2 ^ 155 =
        (magnitude w).toNat % 2 ^ 27 * 2 ^ ((magnitude w).toNat / 2 ^ 27) := by
      rw [hn, Nat.div_mul_cancel (Nat.dvd_of_mod_eq_zero hwhole), scaledValue_eq]
    have hne : (magnitude (fixInteger w).signedWord).toNat ≠ 0 := by
      intro hz
      rw [hz, Nat.zero_mul] at hvalue
      have hfraction : 0 < (magnitude w).toNat % 2 ^ 27 := (by norm_num : 0 < 2 ^ 26).trans_le hnorm
      exact (Nat.mul_pos hfraction (Nat.two_pow_pos _)).ne hvalue
    obtain ⟨k, hc, hlo, hhi, hf⟩ := exists_digits_of_whole hne hnorm (Nat.mod_lt _ (by norm_num)) hvalue
    rw [flt_eq hlo hhi, hsign, hf, ← hc]
    refine Acc.eq_ofSigned rfl ?_
    rw [accOfParts_toNat_of_lt _ (by omega) (Nat.mod_lt _ (by norm_num))]
    exact Nat.div_add_mod' _ _
  · have hvalue : scaledValue w = 0 := by rw [scaledValue_eq, hzero]; rfl
    rw [flt_of_zero (BitVec.eq_of_toNat_eq (hn.trans (by rw [hvalue]; rfl))), hsign]
    refine Acc.eq_ofSigned rfl ?_
    rw [accOfParts_toNat_of_lt _ (by norm_num) (by norm_num), hzero]
    rfl

/-- Settles O46: FLT by the number of digits, FIX by the value, and the round trips by the two. -/
theorem fixAndFloat : Obligations.FixAndFloat := by
  unfold Obligations.FixAndFloat
  refine ⟨fun o s ea w hq h hw => ⟨?flt, fun hfits => ?fix⟩, ?fixFlt, ?fltFix⟩
  case flt =>
    obtain ⟨hqbit, hpbit⟩ := flt_above w
    exact ⟨_, execFlt_of_load hq h hw, flt_s w, hqbit, hpbit, flt_mag_of_zero, flt_normalized, scaledValue_flt_of_lt,
      fun j => scaledValue_flt_of_digits⟩
  case fix =>
    exact ⟨_, execFix_of_load hq h hw hfits, rfl, rfl, signOf_signed _ _, fixInteger_toNat hfits,
      fixFraction_magnitude_toNat w⟩
  case fixFlt =>
    rintro w mq ac r hlt rfl
    exact fix_flt ac mq hlt
  case fltFix =>
    intro w mq ac hfits hwhole hnorm
    rw [numerics_fix, numerics_flt, fix_of_lt ac mq hfits]
    exact flt_fixInteger hfits hwhole hnorm

end Sys2Proof.Machine
end
